-- ==== Sys2Proof/Word.lean ====
section
/-! DEFINITION. The 16-bit word (rule R14) and the cell (rule R12): what every register and every memory address
holds. -/

namespace Sys2Proof

/-- `W`: the width of a word in bits (rule R8). -/
abbrev Config.w : Nat := 16

/-- A word: an unsigned 16-bit value, bit 15 the most significant (rules R9, R14). -/
abbrev Word := BitVec Config.w

/-- A cell (rule R12): the content of a register or of a memory slot. `empty` is the source's "empty sentinel"
(valid bit 0); the data bits of an empty cell are not observable (93_implementation_defined.md I7), so none are
kept. -/
inductive Cell where
  /-- EMPTY: no word is there. -/
  | empty
  /-- WORD(w): the valid word `w`. -/
  | word (w : Word)
  deriving DecidableEq, Repr

/-- `isEmpty(c)` of rule R13. -/
def Cell.isEmpty : Cell → Bool
  | .empty => true
  | .word _ => false

end Sys2Proof
end

