-- ==== Sys2Proof/Config.lean ====
section
/-! DEFINITION. The implementation parameters of rule R8 (`W` stands beside the word, in Word.lean), each with the value the spec gives it, and the values the
spec leaves open (free values: constants without a body). -/

namespace Sys2Proof

/-- `NREG`: the number of general registers (rule R8). -/
def Config.nreg : Nat := 8

/-- `IMMW`: the width of a literal, which is operand2 (rules R8, R80). -/
abbrev Config.immw : Nat := 4

/-- `PCW`: the width of the pc (rules R8, R43). -/
abbrev Config.pcw : Nat := 6

/-- `NMEM`: the number of memory cells, addresses 0 to 39 (rules R8, R40). -/
def Config.nmem : Nat := 40

/-- `DTREACH`: the cells LOAD and STORE reach, addresses 0 to 15 (rules R8, R56). -/
def Config.dtReach : Nat := 16

/-- `DLREACH`: the cells the data loader reaches, addresses 0 to 15 (rules R8, R56, R194). -/
def Config.dlReach : Nat := 16

/-- `PLMAX`: the most program words the program loader writes (rules R8, R193). -/
def Config.plMax : Nat := 40

/-- The two values of `SUB_NEG_POLICY` (rules R8, R105): what SUB does when sourceA is less than sourceB. -/
inductive SubNegPolicy where
  /-- The result wraps modulo 2^16: the hardware this spec describes. -/
  | wrap
  /-- The model-only alternative for the original software: the step ends the run with an outcome that has no
  STATUS code (93_implementation_defined.md I1). -/
  | fault
  deriving DecidableEq, Repr

/-- `SUB_NEG_POLICY` at its default, `wrap`, which every other rule of the spec assumes (rule R105). -/
def Config.subNegPolicy : SubNegPolicy := .wrap

/-- `CYCLES_PER_STEP`: the clock cycles of the n-th step, positive and otherwise open (rules R8, R203). It has no
body, and no definition of the model reads it: no rule of the spec depends on it and one step is one instruction. -/
opaque Config.cyclesPerStep : Nat → PNat

/-- What the `result` port of the alu_executor carries, by its opcode, where there is no result: for an opcode that
writes nothing, and for any opcode with `fault` = 1 (rules R100, R111 give no value). FREE VALUE: nothing
architectural reads it, because no register is written then (notes/assumptions/9.md). -/
opaque Config.idleAluResult : BitVec 4 → Word

/-- What drives `ra_idx` for an ALU word with i = 1, by its operand2 (rule R37 gives an index for i = 0 alone). FREE
VALUE: the cell it reads is not used (notes/assumptions/9.md). -/
opaque Config.idleReadIndex : BitVec 4 → BitVec 3

/-- The 16 data bits of an EMPTY memory cell, by its address, as a 17-bit cell port carries them
(93_implementation_defined.md I7, "any value"). FREE VALUE: no operation can observe them (notes/assumptions/9.md). -/
opaque Config.emptyDataBits : Nat → Word

/-- The 16 data bits of an EMPTY register, by its index, as a 17-bit cell port carries them
(93_implementation_defined.md I7, "any value"). FREE VALUE: no operation can observe them (notes/assumptions/9.md). -/
opaque Config.emptyRegisterBits : BitVec 3 → Word

end Sys2Proof
end

