-- ==== Sys2Proof/Syntax.lean ====
section
/-! DEFINITION. The instructions: one constructor for each of the 32 rows of spec/opcode_table.json (rule R85), with
the operand fields of rule R76. Fields that an instruction ignores are kept, so that an instruction is exactly one
16-bit word and no bit of it is dropped. -/

namespace Sys2Proof

/-- The general registers R0 to R7 (rule R31). operand1 and operand3 are 3 bits, so they always name one of them
(rule R81). -/
inductive Reg where
  | r0
  | r1
  | r2
  | r3
  | r4
  | r5
  | r6
  | r7
  deriving DecidableEq, Repr

/-- operand2 of the ALU family with its immediate bit i (rules R76, R79, R80): a register index when i = 0, a literal
when i = 1. Both are the 4-bit number of the field. An index of 8 to 15 is a form the encoding has and the
instruction faults on (rule R82). -/
inductive SourceA where
  /-- i = 0: the register with this index. -/
  | reg (index : Nat)
  /-- i = 1: this literal, zero-extended. -/
  | imm (value : Nat)
  deriving DecidableEq, Repr

/-- The bits a data-transfer word carries and ignores: bit 10 (i) and bits 2:0 (operand3) (rules R83, R87). -/
structure Spare where
  i : Bool
  op3 : BitVec 3
  deriving DecidableEq, Repr

/-- The ignored bits as the assembler writes them (rules R84, R90). -/
def Spare.zero : Spare := ⟨false, 0⟩

/-- The instructions of the opcode map (rule R85). In the ALU family (t = 0) `d` is operand1, the destination, `a` is
operand2 with the immediate bit, sourceA, and `b` is operand3, sourceB (rule R79). In the data-transfer family
(t = 1) `r` is operand1, `a` is operand2, the memory address, and `x` holds the ignored bits (rule R83). -/
inductive Instr where
  /-- ADD (rule R102): `Rd <- A + B`, modulo 2^16. -/
  | add (d : Reg) (a : SourceA) (b : Reg)
  /-- SUB (rules R104, R105): `Rd <- A - B`, modulo 2^16. -/
  | sub (d : Reg) (a : SourceA) (b : Reg)
  /-- AND (rule R106): `Rd <- A & B`. -/
  | and (d : Reg) (a : SourceA) (b : Reg)
  /-- OR (rule R107): `Rd <- A | B`. -/
  | or (d : Reg) (a : SourceA) (b : Reg)
  /-- XOR (rule R108): `Rd <- A ^ B`. -/
  | xor (d : Reg) (a : SourceA) (b : Reg)
  /-- NOPA5 (rule R110): the ALU no-op of opcode 5; it reads its operands. -/
  | nopa5 (d : Reg) (a : SourceA) (b : Reg)
  /-- NOPA6 (rule R110): the ALU no-op of opcode 6; it reads its operands. -/
  | nopa6 (d : Reg) (a : SourceA) (b : Reg)
  /-- NOPA7 (rule R110): the ALU no-op of opcode 7; it reads its operands. -/
  | nopa7 (d : Reg) (a : SourceA) (b : Reg)
  /-- NOPA8 (rule R110): the ALU no-op of opcode 8; it reads its operands. -/
  | nopa8 (d : Reg) (a : SourceA) (b : Reg)
  /-- NOPA9 (rule R110): the ALU no-op of opcode 9; it reads its operands. -/
  | nopa9 (d : Reg) (a : SourceA) (b : Reg)
  /-- NOPA10 (rule R110): the ALU no-op of opcode 10; it reads its operands. -/
  | nopa10 (d : Reg) (a : SourceA) (b : Reg)
  /-- NOPA11 (rule R110): the ALU no-op of opcode 11; it reads its operands. -/
  | nopa11 (d : Reg) (a : SourceA) (b : Reg)
  /-- NOPA12 (rule R110): the ALU no-op of opcode 12; it reads its operands. -/
  | nopa12 (d : Reg) (a : SourceA) (b : Reg)
  /-- NOPA13 (rule R110): the ALU no-op of opcode 13; it reads its operands. -/
  | nopa13 (d : Reg) (a : SourceA) (b : Reg)
  /-- NOPA14 (rule R110): the ALU no-op of opcode 14; it reads its operands. -/
  | nopa14 (d : Reg) (a : SourceA) (b : Reg)
  /-- NOPA15 (rule R110): the ALU no-op of opcode 15; it reads its operands. -/
  | nopa15 (d : Reg) (a : SourceA) (b : Reg)
  /-- NOPD0 (rule R130): the data-transfer no-op of opcode 0. -/
  | nopd0 (r : Reg) (a : Nat) (x : Spare)
  /-- NOPD1 (rule R130): the data-transfer no-op of opcode 1. -/
  | nopd1 (r : Reg) (a : Nat) (x : Spare)
  /-- NOPD2 (rule R130): the data-transfer no-op of opcode 2. -/
  | nopd2 (r : Reg) (a : Nat) (x : Spare)
  /-- NOPD3 (rule R130): the data-transfer no-op of opcode 3. -/
  | nopd3 (r : Reg) (a : Nat) (x : Spare)
  /-- NOPD4 (rule R130): the data-transfer no-op of opcode 4. -/
  | nopd4 (r : Reg) (a : Nat) (x : Spare)
  /-- LOAD (rules R126, R127): `Rr <- mem[a]`, verbatim. -/
  | load (r : Reg) (a : Nat) (x : Spare)
  /-- STORE (rules R128, R129): `mem[a] <- Rr`, verbatim. -/
  | store (r : Reg) (a : Nat) (x : Spare)
  /-- NOPD7 (rule R130): the data-transfer no-op of opcode 7. -/
  | nopd7 (r : Reg) (a : Nat) (x : Spare)
  /-- NOPD8 (rule R130): the data-transfer no-op of opcode 8. -/
  | nopd8 (r : Reg) (a : Nat) (x : Spare)
  /-- NOPD9 (rule R130): the data-transfer no-op of opcode 9. -/
  | nopd9 (r : Reg) (a : Nat) (x : Spare)
  /-- NOPD10 (rule R130): the data-transfer no-op of opcode 10. -/
  | nopd10 (r : Reg) (a : Nat) (x : Spare)
  /-- NOPD11 (rule R130): the data-transfer no-op of opcode 11. -/
  | nopd11 (r : Reg) (a : Nat) (x : Spare)
  /-- NOPD12 (rule R130): the data-transfer no-op of opcode 12. -/
  | nopd12 (r : Reg) (a : Nat) (x : Spare)
  /-- NOPD13 (rule R130): the data-transfer no-op of opcode 13. -/
  | nopd13 (r : Reg) (a : Nat) (x : Spare)
  /-- NOPD14 (rule R130): the data-transfer no-op of opcode 14. -/
  | nopd14 (r : Reg) (a : Nat) (x : Spare)
  /-- NOPD15 (rule R130): the data-transfer no-op of opcode 15. -/
  | nopd15 (r : Reg) (a : Nat) (x : Spare)
  deriving DecidableEq, Repr

end Sys2Proof
end

