-- ==== Sys2Proof/WellFormed.lean ====
section
/-! DEFINITION. Well-formed instructions: operand2 fits its 4-bit field (rule R76). The other fields are
well-formed by their types (rule R81). A register index of 8 to 15 is well-formed: the encoding holds it, and the
instruction that names it faults (rule R82). -/

namespace Sys2Proof

/-- operand2 of the ALU family fits its `IMMW` = 4 bits, as an index and as a literal (rules R76, R80, R82). -/
def SourceA.wellFormed : SourceA → Bool
  | .reg index => index < 2 ^ Config.immw
  | .imm value => value < 2 ^ Config.immw

/-- The memory address of the data-transfer family fits operand2's 4 bits, so it is one of the cells 0 to 15
(rules R83, R132). -/
def addressWellFormed (a : Nat) : Bool :=
  a < Config.dtReach

/-- The instruction fits its 16-bit word. -/
def Instr.wellFormed : Instr → Bool
  | .add _ a _ => a.wellFormed
  | .sub _ a _ => a.wellFormed
  | .and _ a _ => a.wellFormed
  | .or _ a _ => a.wellFormed
  | .xor _ a _ => a.wellFormed
  | .nopa5 _ a _ => a.wellFormed
  | .nopa6 _ a _ => a.wellFormed
  | .nopa7 _ a _ => a.wellFormed
  | .nopa8 _ a _ => a.wellFormed
  | .nopa9 _ a _ => a.wellFormed
  | .nopa10 _ a _ => a.wellFormed
  | .nopa11 _ a _ => a.wellFormed
  | .nopa12 _ a _ => a.wellFormed
  | .nopa13 _ a _ => a.wellFormed
  | .nopa14 _ a _ => a.wellFormed
  | .nopa15 _ a _ => a.wellFormed
  | .nopd0 _ a _ => addressWellFormed a
  | .nopd1 _ a _ => addressWellFormed a
  | .nopd2 _ a _ => addressWellFormed a
  | .nopd3 _ a _ => addressWellFormed a
  | .nopd4 _ a _ => addressWellFormed a
  | .load _ a _ => addressWellFormed a
  | .store _ a _ => addressWellFormed a
  | .nopd7 _ a _ => addressWellFormed a
  | .nopd8 _ a _ => addressWellFormed a
  | .nopd9 _ a _ => addressWellFormed a
  | .nopd10 _ a _ => addressWellFormed a
  | .nopd11 _ a _ => addressWellFormed a
  | .nopd12 _ a _ => addressWellFormed a
  | .nopd13 _ a _ => addressWellFormed a
  | .nopd14 _ a _ => addressWellFormed a
  | .nopd15 _ a _ => addressWellFormed a

end Sys2Proof
end

