-- ==== Sys2Proof/Decode.lean ====
section
/-! DEFINITION. The instruction_decoder: the fields of a word (rules R76, R77), the decoder over the opcode map (rules
R78, R85), the cell decoder, which rejects an EMPTY cell by name (rule R88), and the encoder (rule R84). -/

namespace Sys2Proof

/-- The register whose 3-bit index is `x` (rules R31, R81). -/
def Reg.ofBits (x : BitVec 3) : Reg :=
  match x.getLsbD 2, x.getLsbD 1, x.getLsbD 0 with
  | false, false, false => .r0
  | false, false, true => .r1
  | false, true, false => .r2
  | false, true, true => .r3
  | true, false, false => .r4
  | true, false, true => .r5
  | true, true, false => .r6
  | true, true, true => .r7

/-- The index of a register, 0 to 7 (rule R31). -/
def Reg.index : Reg → Nat
  | .r0 => 0
  | .r1 => 1
  | .r2 => 2
  | .r3 => 3
  | .r4 => 4
  | .r5 => 5
  | .r6 => 6
  | .r7 => 7

/-- The 3-bit field that names a register. -/
def Reg.toBits (r : Reg) : BitVec 3 :=
  BitVec.ofNat 3 r.index

/-- The register an index names: R0 to R7 for the indices below `NREG`, none for any other index (rule R82). -/
def Reg.ofIndex (n : Nat) : Option Reg :=
  if n < Config.nreg then some (Reg.ofBits (BitVec.ofNat 3 n)) else none

/-- The six fields of an instruction word (rules R76, R77). -/
structure Fields where
  t : Bool
  opcode : BitVec 4
  i : Bool
  op1 : BitVec 3
  op2 : BitVec 4
  op3 : BitVec 3
  deriving DecidableEq, Repr

/-- `decode(w)` of rule R77: the fields by their bit positions, for every one of the 65536 words. -/
def fieldsOf (w : Word) : Fields where
  t := w.getLsbD 15
  opcode := w.extractLsb' 11 4
  i := w.getLsbD 10
  op1 := w.extractLsb' 7 3
  op2 := w.extractLsb' 3 4
  op3 := w.extractLsb' 0 3

/-- sourceA as the ALU family reads it from i and operand2 (rule R79). -/
def Fields.sourceA (f : Fields) : SourceA :=
  if f.i then .imm f.op2.toNat else .reg f.op2.toNat

/-- The ALU family's opcode map, by the opcode's bits 14, 13, 12, 11 (rules R78, R85). -/
def decodeAlu (opcode : BitVec 4) (d : Reg) (a : SourceA) (b : Reg) : Instr :=
  match opcode.getLsbD 3, opcode.getLsbD 2, opcode.getLsbD 1, opcode.getLsbD 0 with
  | false, false, false, false => .add d a b
  | false, false, false, true => .sub d a b
  | false, false, true, false => .and d a b
  | false, false, true, true => .or d a b
  | false, true, false, false => .xor d a b
  | false, true, false, true => .nopa5 d a b
  | false, true, true, false => .nopa6 d a b
  | false, true, true, true => .nopa7 d a b
  | true, false, false, false => .nopa8 d a b
  | true, false, false, true => .nopa9 d a b
  | true, false, true, false => .nopa10 d a b
  | true, false, true, true => .nopa11 d a b
  | true, true, false, false => .nopa12 d a b
  | true, true, false, true => .nopa13 d a b
  | true, true, true, false => .nopa14 d a b
  | true, true, true, true => .nopa15 d a b

/-- The data-transfer family's opcode map, by the opcode's bits 14, 13, 12, 11 (rules R78, R85). -/
def decodeDt (opcode : BitVec 4) (r : Reg) (a : Nat) (x : Spare) : Instr :=
  match opcode.getLsbD 3, opcode.getLsbD 2, opcode.getLsbD 1, opcode.getLsbD 0 with
  | false, false, false, false => .nopd0 r a x
  | false, false, false, true => .nopd1 r a x
  | false, false, true, false => .nopd2 r a x
  | false, false, true, true => .nopd3 r a x
  | false, true, false, false => .nopd4 r a x
  | false, true, false, true => .load r a x
  | false, true, true, false => .store r a x
  | false, true, true, true => .nopd7 r a x
  | true, false, false, false => .nopd8 r a x
  | true, false, false, true => .nopd9 r a x
  | true, false, true, false => .nopd10 r a x
  | true, false, true, true => .nopd11 r a x
  | true, true, false, false => .nopd12 r a x
  | true, true, false, true => .nopd13 r a x
  | true, true, true, false => .nopd14 r a x
  | true, true, true, true => .nopd15 r a x

/-- The instruction of a word: the mode bit t selects the family (rule R78). Every word is an instruction: no
encoding is illegal (rule R86). -/
def decode (w : Word) : Instr :=
  let f := fieldsOf w
  if f.t then decodeDt f.opcode (Reg.ofBits f.op1) f.op2.toNat ⟨f.i, f.op3⟩
  else decodeAlu f.opcode (Reg.ofBits f.op1) f.sourceA (Reg.ofBits f.op3)

/-- Why a cell holds no instruction. -/
inductive DecodeError where
  /-- The cell is EMPTY, which is the absence of a word and no encoding (rule R88). -/
  | emptyCell
  deriving DecidableEq, Repr

/-- The instruction in a cell. An EMPTY cell is rejected by name (rules R77, R88). -/
def decodeCell : Cell → Except DecodeError Instr
  | .empty => .error .emptyCell
  | .word w => .ok (decode w)

/-- The host's question: the instruction the decoder reads from an opcode-table row's bits. An instruction is one
word of 16 bits (rule R75), so a number that does not fit the row's bits, or a row wider than one word, is none. -/
def decodeTableWord (nbits w : Nat) : Option Instr :=
  if nbits ≤ 16 ∧ w < 2 ^ nbits then some (decode (BitVec.ofNat 16 w)) else none

/-- Bits 15:11 of an instruction's word: t and the opcode (rule R85). -/
def Instr.code : Instr → BitVec 5
  | .add .. => 0b00000#5
  | .sub .. => 0b00001#5
  | .and .. => 0b00010#5
  | .or .. => 0b00011#5
  | .xor .. => 0b00100#5
  | .nopa5 .. => 0b00101#5
  | .nopa6 .. => 0b00110#5
  | .nopa7 .. => 0b00111#5
  | .nopa8 .. => 0b01000#5
  | .nopa9 .. => 0b01001#5
  | .nopa10 .. => 0b01010#5
  | .nopa11 .. => 0b01011#5
  | .nopa12 .. => 0b01100#5
  | .nopa13 .. => 0b01101#5
  | .nopa14 .. => 0b01110#5
  | .nopa15 .. => 0b01111#5
  | .nopd0 .. => 0b10000#5
  | .nopd1 .. => 0b10001#5
  | .nopd2 .. => 0b10010#5
  | .nopd3 .. => 0b10011#5
  | .nopd4 .. => 0b10100#5
  | .load .. => 0b10101#5
  | .store .. => 0b10110#5
  | .nopd7 .. => 0b10111#5
  | .nopd8 .. => 0b11000#5
  | .nopd9 .. => 0b11001#5
  | .nopd10 .. => 0b11010#5
  | .nopd11 .. => 0b11011#5
  | .nopd12 .. => 0b11100#5
  | .nopd13 .. => 0b11101#5
  | .nopd14 .. => 0b11110#5
  | .nopd15 .. => 0b11111#5

/-- The six fields laid side by side from bit 15 down to bit 0 (rules R76, R84); `code` is t and the opcode. -/
def pack (code : BitVec 5) (i : Bool) (op1 : BitVec 3) (op2 : BitVec 4) (op3 : BitVec 3) : Word :=
  code ++ BitVec.ofBool i ++ op1 ++ op2 ++ op3

/-- The immediate bit i of an ALU word (rule R76). -/
def SourceA.immediate : SourceA → Bool
  | .reg _ => false
  | .imm _ => true

/-- operand2 of an ALU word (rule R76). -/
def SourceA.field : SourceA → BitVec 4
  | .reg index => BitVec.ofNat 4 index
  | .imm value => BitVec.ofNat 4 value

/-- The ALU formula of rule R84. -/
def encodeAlu (code : BitVec 5) (d : Reg) (a : SourceA) (b : Reg) : Word :=
  pack code a.immediate d.toBits a.field b.toBits

/-- The data-transfer formula of rule R84. -/
def encodeDt (code : BitVec 5) (r : Reg) (a : Nat) (x : Spare) : Word :=
  pack code x.i r.toBits (BitVec.ofNat 4 a) x.op3

/-- The word of an instruction (rule R84). -/
def encode : Instr → Word
  | .add d a b => encodeAlu (Instr.add d a b).code d a b
  | .sub d a b => encodeAlu (Instr.sub d a b).code d a b
  | .and d a b => encodeAlu (Instr.and d a b).code d a b
  | .or d a b => encodeAlu (Instr.or d a b).code d a b
  | .xor d a b => encodeAlu (Instr.xor d a b).code d a b
  | .nopa5 d a b => encodeAlu (Instr.nopa5 d a b).code d a b
  | .nopa6 d a b => encodeAlu (Instr.nopa6 d a b).code d a b
  | .nopa7 d a b => encodeAlu (Instr.nopa7 d a b).code d a b
  | .nopa8 d a b => encodeAlu (Instr.nopa8 d a b).code d a b
  | .nopa9 d a b => encodeAlu (Instr.nopa9 d a b).code d a b
  | .nopa10 d a b => encodeAlu (Instr.nopa10 d a b).code d a b
  | .nopa11 d a b => encodeAlu (Instr.nopa11 d a b).code d a b
  | .nopa12 d a b => encodeAlu (Instr.nopa12 d a b).code d a b
  | .nopa13 d a b => encodeAlu (Instr.nopa13 d a b).code d a b
  | .nopa14 d a b => encodeAlu (Instr.nopa14 d a b).code d a b
  | .nopa15 d a b => encodeAlu (Instr.nopa15 d a b).code d a b
  | .nopd0 r a x => encodeDt (Instr.nopd0 r a x).code r a x
  | .nopd1 r a x => encodeDt (Instr.nopd1 r a x).code r a x
  | .nopd2 r a x => encodeDt (Instr.nopd2 r a x).code r a x
  | .nopd3 r a x => encodeDt (Instr.nopd3 r a x).code r a x
  | .nopd4 r a x => encodeDt (Instr.nopd4 r a x).code r a x
  | .load r a x => encodeDt (Instr.load r a x).code r a x
  | .store r a x => encodeDt (Instr.store r a x).code r a x
  | .nopd7 r a x => encodeDt (Instr.nopd7 r a x).code r a x
  | .nopd8 r a x => encodeDt (Instr.nopd8 r a x).code r a x
  | .nopd9 r a x => encodeDt (Instr.nopd9 r a x).code r a x
  | .nopd10 r a x => encodeDt (Instr.nopd10 r a x).code r a x
  | .nopd11 r a x => encodeDt (Instr.nopd11 r a x).code r a x
  | .nopd12 r a x => encodeDt (Instr.nopd12 r a x).code r a x
  | .nopd13 r a x => encodeDt (Instr.nopd13 r a x).code r a x
  | .nopd14 r a x => encodeDt (Instr.nopd14 r a x).code r a x
  | .nopd15 r a x => encodeDt (Instr.nopd15 r a x).code r a x

end Sys2Proof
end

