-- ==== Sys2Proof/Machine/Codec.lean ====
section
/-! DEFINITION. The word codec (rules R13 to R18): a cell's value, the cell of a result, and the text form of a word at
the host interface. -/

namespace Sys2Proof.Machine

/-- `val(c)`: the unsigned value of a cell; EMPTY has no digits and reads as 0 (rules R13, R16). -/
def val : Cell → Nat
  | .empty => 0
  | .word w => w.toNat

/-- `enc(v)`: the word `v mod 2^16`, for negative `v` as well (rules R13, R15). -/
def enc (v : Int) : Cell :=
  .word (BitVec.ofInt Config.w v)

/-- The value of one binary digit character (rule R18). -/
def digitValue (c : Char) : Option Nat :=
  if c = '0' then some 0 else if c = '1' then some 1 else none

/-- The unsigned value of a string of binary digits, most significant first, read after the digits whose value is
`acc`. None where a character is not a binary digit (rules R16, R18). -/
def digitsValue (acc : Nat) : List Char → Option Nat
  | [] => some acc
  | c :: cs =>
    match digitValue c with
    | none => none
    | some d => digitsValue (2 * acc + d) cs

/-- A field of exactly `width` binary digits, as the host adapter checks it (rule R196). None where the string is
malformed. -/
def fieldOfText (width : Nat) (cs : List Char) : Option Nat :=
  if cs.length = width then digitsValue 0 cs else none

/-- The word of a 16-character string: character position `p` holds bit `15 - p` (rules R10, R18). -/
def wordOfText (cs : List Char) : Option Word :=
  (fieldOfText Config.w cs).map (BitVec.ofNat Config.w)

/-- The address of a 4-character string (rule R194). -/
def addressOfText (cs : List Char) : Option Nat :=
  fieldOfText 4 cs

/-- Bits as binary digits, the most significant first: '1' at position `p` exactly when bit `n - 1 - p` is 1. -/
def digitsText (n : Nat) (x : BitVec n) : List Char :=
  (List.range n).map fun p => if x.getLsbD (n - 1 - p) then '1' else '0'

/-- The text form of a word: 16 characters, with '1' at position `p` exactly when bit `15 - p` is 1 (rule R18). -/
def textForm (w : Word) : List Char :=
  digitsText Config.w w

/-- The 4 binary digits of a data address 0 to 15 (rule R194), the most significant first, as rule R16 reads them. -/
def addressText (a : BitVec 4) : List Char :=
  digitsText 4 a

end Sys2Proof.Machine
end

