-- ==== Sys2Proof/Machine/State.lean ====
section
/-! DEFINITION. The machine's state (rule R30) as plain data, its value right after reset (rule R185), and the reasons
a step can have no next state. -/

namespace Sys2Proof.Machine

/-- The memory's contents as (address, word) pairs in canonical form: addresses strictly rising, one entry for each
cell that holds a word. An address that is not listed holds EMPTY, the reset content (rule R41). -/
abbrev Memory := List (Nat × Word)

/-- The register file: 8 cells R0 to R7 (rules R31, R32). -/
structure RegFile where
  r0 : Cell
  r1 : Cell
  r2 : Cell
  r3 : Cell
  r4 : Cell
  r5 : Cell
  r6 : Cell
  r7 : Cell
  deriving DecidableEq, Repr

/-- The sequencer state (rule R46). -/
inductive RunState where
  /-- After reset: the host may load memory, and no instruction executes. -/
  | load
  /-- The core takes one step at a time. -/
  | running
  /-- Terminal (rule R149). -/
  | halted
  deriving DecidableEq, Repr

/-- Why the core halted (rule R165). -/
inductive HaltReason where
  /-- Not halted. -/
  | none
  /-- `pc < 40` and the cell at the pc is EMPTY: a normal halt (rule R142). -/
  | emptyCell
  /-- `pc >= 40`: a normal halt (rule R143). -/
  | bound
  /-- RegisterIndexFault (rule R170). -/
  | fault
  deriving DecidableEq, Repr

/-- The whole state: the tuple `(x, mem, pc, run, status)` of rule R30, and the one fact about past commands that
rule R187 makes the host interface depend on. -/
structure State where
  /-- `x[0..7]`, the general registers (rules R31, R32). -/
  regs : RegFile
  /-- `mem[0..39]` (rules R40, R55). -/
  mem : Memory
  /-- The program counter, 6 bits (rule R43). -/
  pc : BitVec Config.pcw
  /-- The sequencer state (rule R46). -/
  run : RunState
  /-- The STATUS register, which only the host reads (rule R45). -/
  status : BitVec 16
  /-- The model's own field: whether a `load_program` has been carried out since reset. Rule R187 admits `load_data`
  only after one (DEDUCED, notes/assumptions/3.md). No step reads or writes it. -/
  programLoaded : Bool
  deriving DecidableEq, Repr

/-- Why a state has no next state. None of these is raised by a decoded word in a RUNNING state. -/
inductive Fault where
  /-- step, in the LOAD state, where no step exists until the host gives `start` (rules R46, R140). Safe: nothing can
  be proved of a step that does not exist. -/
  | notStarted
  /-- step, in the HALTED state, which is terminal: the state is frozen and no step exists (rule R149,
  93_implementation_defined.md I12, "stuck"). Safe. -/
  | coreHalted
  /-- LOAD and STORE at an address outside the 40 cells, which no 4-bit operand2 can name (rule R132: the defensive
  assertion that can never fire). Only a term that is not well-formed raises it. Safe. -/
  | noSuchCell
  /-- SUB with a negative difference under `SUB_NEG_POLICY = fault`, the model-only alternative of rule R105. Not
  raised under the default, `wrap`. Safe. -/
  | negativeDifference
  deriving DecidableEq, Repr

/-- Why an instruction is refused. No instruction of this core is. -/
inductive Refusal where
  /-- exec, for an instruction that has no meaning in the model. No arm raises it. Safe. -/
  | notModelled (mnemonic : String)
  deriving DecidableEq, Repr

/-- What a step or a meaning answers. -/
abbrev Result := Host.Outcome State Fault Refusal

/-- The register file after reset: `WORD(0)` in every register (rule R38). -/
def RegFile.reset : RegFile :=
  ⟨.word 0, .word 0, .word 0, .word 0, .word 0, .word 0, .word 0, .word 0⟩

/-- The machine right after reset (rule R185). -/
def State.reset : State where
  regs := RegFile.reset
  mem := []
  pc := 0
  run := .load
  status := 0x0000
  programLoaded := false

end Sys2Proof.Machine
end

