-- ==== Sys2Proof/Machine/Flags.lean ====
section
/-! DEFINITION. The fields of the STATUS register (rule R45). The core has no flags or condition codes (rule R47): no
instruction computes one, and STATUS is written by the sequencer alone. -/

namespace Sys2Proof.Machine

/-- The 2-bit code of the sequencer state: 00 LOAD, 01 RUNNING, 10 HALTED (rule R45). -/
def RunState.code : RunState → BitVec 2
  | .load => 0b00#2
  | .running => 0b01#2
  | .halted => 0b10#2

/-- The 2-bit code of HALT_REASON (rules R45, R165). -/
def HaltReason.code : HaltReason → BitVec 2
  | .none => 0b00#2
  | .emptyCell => 0b01#2
  | .bound => 0b10#2
  | .fault => 0b11#2

/-- STATUS.RUN, bits 1:0. -/
def statusRun (w : BitVec 16) : BitVec 2 :=
  w.extractLsb' 0 2

/-- STATUS.HALT_REASON, bits 3:2. -/
def statusHaltReason (w : BitVec 16) : BitVec 2 :=
  w.extractLsb' 2 2

/-- STATUS.BADIDX, bits 7:4. -/
def statusBadIdx (w : BitVec 16) : BitVec 4 :=
  w.extractLsb' 4 4

/-- STATUS bits 15:8, reserved. -/
def statusReserved (w : BitVec 16) : BitVec 8 :=
  w.extractLsb' 8 8

/-- The STATUS word with these four fields (rule R45). -/
def statusPack (reserved : BitVec 8) (badIdx : BitVec 4) (reason run : BitVec 2) : BitVec 16 :=
  reserved ++ badIdx ++ reason ++ run

/-- `STATUS.RUN <- code`; the other fields stay. -/
def setStatusRun (w : BitVec 16) (code : BitVec 2) : BitVec 16 :=
  statusPack (statusReserved w) (statusBadIdx w) (statusHaltReason w) code

/-- `STATUS.HALT_REASON <- code`; the other fields stay. -/
def setStatusHaltReason (w : BitVec 16) (code : BitVec 2) : BitVec 16 :=
  statusPack (statusReserved w) (statusBadIdx w) code (statusRun w)

/-- `STATUS.BADIDX <- index`; the other fields stay. -/
def setStatusBadIdx (w : BitVec 16) (index : BitVec 4) : BitVec 16 :=
  statusPack (statusReserved w) index (statusHaltReason w) (statusRun w)

end Sys2Proof.Machine
end

