-- ==== Sys2Proof/Machine/Ops.lean ====
section
/-! DEFINITION. The named operations over registers, memory, the pc and the sequencer: what the meanings and the step
are written in. -/

namespace Sys2Proof.Machine

/-- The cell of a register. -/
def RegFile.get (x : RegFile) : Reg → Cell
  | .r0 => x.r0
  | .r1 => x.r1
  | .r2 => x.r2
  | .r3 => x.r3
  | .r4 => x.r4
  | .r5 => x.r5
  | .r6 => x.r6
  | .r7 => x.r7

/-- The register file with one register overwritten. No register is hardwired (rule R33). -/
def RegFile.set (x : RegFile) (r : Reg) (c : Cell) : RegFile :=
  match r with
  | .r0 => { x with r0 := c }
  | .r1 => { x with r1 := c }
  | .r2 => { x with r2 := c }
  | .r3 => { x with r3 := c }
  | .r4 => { x with r4 := c }
  | .r5 => { x with r5 := c }
  | .r6 => { x with r6 := c }
  | .r7 => { x with r7 := c }

/-- The cell at an address: EMPTY where no word is listed (rule R41). -/
def Memory.read : Memory → Nat → Cell
  | [], _ => .empty
  | (k, w) :: m, a => if k = a then .word w else Memory.read m a

/-- The contents with the cell at an address made EMPTY. -/
def Memory.clear (m : Memory) (a : Nat) : Memory :=
  m.filter fun e => e.1 != a

/-- The contents with a word put at an address that lists none, in address order. -/
def Memory.insert : Memory → Nat → Word → Memory
  | [], a, w => [(a, w)]
  | (k, v) :: m, a, w => if a < k then (a, w) :: (k, v) :: m else (k, v) :: Memory.insert m a w

/-- The contents with one cell overwritten, valid bit included (rule R60). Writing EMPTY removes the entry, so equal
contents are equal lists. -/
def Memory.write (m : Memory) (a : Nat) : Cell → Memory
  | .empty => Memory.clear m a
  | .word w => Memory.insert (Memory.clear m a) a w

/-- The canonical form: addresses strictly rising, each one of the cells 0 to 39 (rule R40). -/
abbrev Memory.wf (m : Memory) : Prop :=
  m.Pairwise (fun e f => e.1 < f.1) ∧ ∀ e ∈ m, e.1 < Config.nmem

/-- `x[r]`, the cell of a register (rule R13). -/
def State.readReg (s : State) (r : Reg) : Cell :=
  s.regs.get r

/-- `x[r] <- c` (rule R13). -/
def State.writeReg (s : State) (r : Reg) (c : Cell) : State :=
  { s with regs := s.regs.set r c }

/-- `MemRead(a, 1)`, for an address that exists (rules R13, R60). -/
def State.readCell? (s : State) (a : Nat) : Option Cell :=
  if a < Config.nmem then some (s.mem.read a) else none

/-- `MemWrite(a, 1, c)`, for an address that exists (rules R13, R60). -/
def State.writeCell? (s : State) (a : Nat) (c : Cell) : Option State :=
  if a < Config.nmem then some { s with mem := s.mem.write a c } else none

/-- `pc <- pc + 1` (rule R145). -/
def State.advancePc (s : State) : State :=
  { s with pc := s.pc + 1 }

/-- The sequencer enters HALTED: `run <- HALTED`, STATUS.RUN <- 10 and STATUS.HALT_REASON <- the reason; nothing else
changes (rules R142, R143, R171). -/
def State.halt (s : State) (reason : HaltReason) : State :=
  { s with
    run := .halted
    status := setStatusHaltReason (setStatusRun s.status RunState.halted.code) reason.code }

/-- RegisterIndexFault, the core's one exception (rules R170, R171): the core halts precisely, STATUS.BADIDX records
operand2, the pc keeps the faulting address, and no register or cell is written. There is no trap entry and no
return from one (rules R174, R175). -/
def State.raiseRegisterIndexFault (s : State) (index : BitVec 4) : State :=
  { s.halt .fault with status := setStatusBadIdx (s.halt .fault).status index }

/-- Start (rule R190): `pc <- 0`, `run <- RUNNING` and STATUS.RUN <- 01; registers and memory stay. -/
def State.start (s : State) : State :=
  { s with pc := 0, run := .running, status := setStatusRun s.status RunState.running.code }

/-- What the fetch unit finds at the pc (rules R141 to R144). -/
inductive Fetch where
  /-- The pc is past the last cell; no cell is read. -/
  | atBound
  /-- The cell at the pc is EMPTY. -/
  | empty
  /-- The word to decode. -/
  | instr (w : Word)
  deriving DecidableEq, Repr

/-- The bound check, then the fetch and the empty check (rules R141 to R144). -/
def State.fetch (s : State) : Fetch :=
  if Config.nmem ≤ s.pc.toNat then .atBound
  else
    match s.mem.read s.pc.toNat with
    | .empty => .empty
    | .word w => .instr w

/-- A state about to fetch the word `w`: `w` stands in the cell at the pc, at address 0 where the pc names no cell,
and the sequencer is RUNNING with STATUS as it is while RUNNING. -/
def State.aboutToFetch (s : State) (w : Word) : State :=
  let pc := if Config.nmem ≤ s.pc.toNat then 0 else s.pc
  { s with
    pc := pc
    mem := s.mem.write pc.toNat (.word w)
    run := .running
    status := statusPack 0 0 HaltReason.none.code RunState.running.code }

end Sys2Proof.Machine
end

