-- ==== Sys2Proof/Machine/Operands.lean ====
section
/-! DEFINITION. The operands of the ALU family (rules R79, R80, R82, R100), and what an ALU opcode does with them. -/

namespace Sys2Proof.Machine

/-- What `alu_operands` gives (rule R100). -/
inductive AluOperands where
  /-- i = 0 and operand2 names no register: RegisterIndexFault with this operand2. -/
  | badIndex (index : BitVec 4)
  /-- The values of sourceA and sourceB. -/
  | sources (x y : Nat)
  deriving DecidableEq, Repr

/-- `alu_operands` of rule R100: the index check first, then both sources from the state at the start of the step.
The literal is zero-extended (rule R80); an EMPTY register reads as 0 (rule R16). -/
def aluOperands (a : SourceA) (b : Reg) (s : State) : AluOperands :=
  match a with
  | .imm value => .sources value (val (s.readReg b))
  | .reg index =>
    match Reg.ofIndex index with
    | none => .badIndex (BitVec.ofNat 4 index)
    | some r => .sources (val (s.readReg r)) (val (s.readReg b))

/-- What an ALU opcode does with its sources. -/
inductive AluEffect where
  /-- The result overwrites the destination register (rule R101). -/
  | write (c : Cell)
  /-- A no-op opcode writes nothing (rule R110). -/
  | nothing
  /-- The run ends: only under the model-only policy of rule R105. -/
  | stop (f : Fault)
  deriving DecidableEq, Repr

end Sys2Proof.Machine
end

