-- ==== Sys2Proof/Machine/Alu.lean ====
section
/-! DEFINITION. The ALU family (alu_executor, 41_alu.md): ADD, SUB, AND, OR, XOR and the no-op opcodes 5 to 15. -/

namespace Sys2Proof.Machine

/-- The shape of every ALU word (rules R100, R101): the index check and the source reads, then the result into `d`, or
nothing written where there is no result, then the pc advance. `op` gives the result from sourceA and sourceB. -/
def aluInstr (op : Nat → Nat → AluEffect) (d : Reg) (a : SourceA) (b : Reg) (s : State) : Result :=
  match aluOperands a b s with
  | .badIndex index => .next (s.raiseRegisterIndexFault index)
  | .sources x y =>
    match op x y with
    | .write c => .next (s.writeReg d c).advancePc
    | .nothing => .next s.advancePc
    | .stop f => .fault f

/-- ADD (rules R102, R103): `x[d] <- enc(A + B)`. -/
def execAdd (d : Reg) (a : SourceA) (b : Reg) (s : State) : Result :=
  aluInstr (fun x y => .write (enc (x + y))) d a b s

/-- The result of SUB under a policy for a negative difference (rules R104, R105): `enc(A - B)`, which wraps; under
the model-only `fault`, a negative difference stops the run instead. -/
def subtract (policy : SubNegPolicy) (x y : Nat) : AluEffect :=
  if x < y ∧ policy = .fault then .stop .negativeDifference else .write (enc ((x : Int) - (y : Int)))

/-- SUB (rules R104, R105): `x[d] <- enc(A - B)`, operand2 minus operand3's register. -/
def execSub (d : Reg) (a : SourceA) (b : Reg) (s : State) : Result :=
  aluInstr (subtract Config.subNegPolicy) d a b s

/-- AND (rule R106): `x[d] <- WORD(A & B)`. -/
def execAnd (d : Reg) (a : SourceA) (b : Reg) (s : State) : Result :=
  aluInstr (fun x y => .write (enc (x &&& y : Nat))) d a b s

/-- OR (rule R107): `x[d] <- WORD(A | B)`. -/
def execOr (d : Reg) (a : SourceA) (b : Reg) (s : State) : Result :=
  aluInstr (fun x y => .write (enc (x ||| y : Nat))) d a b s

/-- XOR (rule R108): `x[d] <- WORD(A ^ B)`. -/
def execXor (d : Reg) (a : SourceA) (b : Reg) (s : State) : Result :=
  aluInstr (fun x y => .write (enc (x ^^^ y : Nat))) d a b s

/-- NOPA5 (rule R110): reads its sources, with the index check, and writes nothing. -/
def execNopa5 (d : Reg) (a : SourceA) (b : Reg) (s : State) : Result :=
  aluInstr (fun _ _ => .nothing) d a b s

/-- NOPA6 (rule R110): reads its sources, with the index check, and writes nothing. -/
def execNopa6 (d : Reg) (a : SourceA) (b : Reg) (s : State) : Result :=
  aluInstr (fun _ _ => .nothing) d a b s

/-- NOPA7 (rule R110): reads its sources, with the index check, and writes nothing. -/
def execNopa7 (d : Reg) (a : SourceA) (b : Reg) (s : State) : Result :=
  aluInstr (fun _ _ => .nothing) d a b s

/-- NOPA8 (rule R110): reads its sources, with the index check, and writes nothing. -/
def execNopa8 (d : Reg) (a : SourceA) (b : Reg) (s : State) : Result :=
  aluInstr (fun _ _ => .nothing) d a b s

/-- NOPA9 (rule R110): reads its sources, with the index check, and writes nothing. -/
def execNopa9 (d : Reg) (a : SourceA) (b : Reg) (s : State) : Result :=
  aluInstr (fun _ _ => .nothing) d a b s

/-- NOPA10 (rule R110): reads its sources, with the index check, and writes nothing. -/
def execNopa10 (d : Reg) (a : SourceA) (b : Reg) (s : State) : Result :=
  aluInstr (fun _ _ => .nothing) d a b s

/-- NOPA11 (rule R110): reads its sources, with the index check, and writes nothing. -/
def execNopa11 (d : Reg) (a : SourceA) (b : Reg) (s : State) : Result :=
  aluInstr (fun _ _ => .nothing) d a b s

/-- NOPA12 (rule R110): reads its sources, with the index check, and writes nothing. -/
def execNopa12 (d : Reg) (a : SourceA) (b : Reg) (s : State) : Result :=
  aluInstr (fun _ _ => .nothing) d a b s

/-- NOPA13 (rule R110): reads its sources, with the index check, and writes nothing. -/
def execNopa13 (d : Reg) (a : SourceA) (b : Reg) (s : State) : Result :=
  aluInstr (fun _ _ => .nothing) d a b s

/-- NOPA14 (rule R110): reads its sources, with the index check, and writes nothing. -/
def execNopa14 (d : Reg) (a : SourceA) (b : Reg) (s : State) : Result :=
  aluInstr (fun _ _ => .nothing) d a b s

/-- NOPA15 (rule R110): reads its sources, with the index check, and writes nothing. -/
def execNopa15 (d : Reg) (a : SourceA) (b : Reg) (s : State) : Result :=
  aluInstr (fun _ _ => .nothing) d a b s

end Sys2Proof.Machine
end

