-- ==== Sys2Proof/Machine/DataTransfer.lean ====
section
/-! DEFINITION. The data-transfer family (load_store_unit, 42_data_transfer.md): LOAD, STORE and the no-op opcodes 0 to
4 and 7 to 15. The ignored bits of the word take no part (rules R83, R125). -/

namespace Sys2Proof.Machine

/-- LOAD (rules R126, R127): `x[r] <- MemRead(a, 1)`, the cell unchanged, EMPTY included. -/
def execLoad (r : Reg) (a : Nat) (_x : Spare) (s : State) : Result :=
  match s.readCell? a with
  | none => .fault .noSuchCell
  | some c => .next (s.writeReg r c).advancePc

/-- STORE (rules R128, R129): `MemWrite(a, 1, x[r])`, the cell unchanged, EMPTY included. -/
def execStore (r : Reg) (a : Nat) (_x : Spare) (s : State) : Result :=
  match s.writeCell? a (s.readReg r) with
  | none => .fault .noSuchCell
  | some s' => .next s'.advancePc

/-- The shape of every data-transfer no-op (rule R130): nothing is read or written, and the pc advances. -/
def dtNoop (s : State) : Result :=
  .next s.advancePc

/-- NOPD0 (rule R130). -/
def execNopd0 (_r : Reg) (_a : Nat) (_x : Spare) (s : State) : Result :=
  dtNoop s

/-- NOPD1 (rule R130). -/
def execNopd1 (_r : Reg) (_a : Nat) (_x : Spare) (s : State) : Result :=
  dtNoop s

/-- NOPD2 (rule R130). -/
def execNopd2 (_r : Reg) (_a : Nat) (_x : Spare) (s : State) : Result :=
  dtNoop s

/-- NOPD3 (rule R130). -/
def execNopd3 (_r : Reg) (_a : Nat) (_x : Spare) (s : State) : Result :=
  dtNoop s

/-- NOPD4 (rule R130). -/
def execNopd4 (_r : Reg) (_a : Nat) (_x : Spare) (s : State) : Result :=
  dtNoop s

/-- NOPD7 (rule R130). -/
def execNopd7 (_r : Reg) (_a : Nat) (_x : Spare) (s : State) : Result :=
  dtNoop s

/-- NOPD8 (rule R130). -/
def execNopd8 (_r : Reg) (_a : Nat) (_x : Spare) (s : State) : Result :=
  dtNoop s

/-- NOPD9 (rule R130). -/
def execNopd9 (_r : Reg) (_a : Nat) (_x : Spare) (s : State) : Result :=
  dtNoop s

/-- NOPD10 (rule R130). -/
def execNopd10 (_r : Reg) (_a : Nat) (_x : Spare) (s : State) : Result :=
  dtNoop s

/-- NOPD11 (rule R130). -/
def execNopd11 (_r : Reg) (_a : Nat) (_x : Spare) (s : State) : Result :=
  dtNoop s

/-- NOPD12 (rule R130). -/
def execNopd12 (_r : Reg) (_a : Nat) (_x : Spare) (s : State) : Result :=
  dtNoop s

/-- NOPD13 (rule R130). -/
def execNopd13 (_r : Reg) (_a : Nat) (_x : Spare) (s : State) : Result :=
  dtNoop s

/-- NOPD14 (rule R130). -/
def execNopd14 (_r : Reg) (_a : Nat) (_x : Spare) (s : State) : Result :=
  dtNoop s

/-- NOPD15 (rule R130). -/
def execNopd15 (_r : Reg) (_a : Nat) (_x : Spare) (s : State) : Result :=
  dtNoop s

end Sys2Proof.Machine
end

