-- ==== Sys2Proof/Machine/Dispatch.lean ====
section
/-! DEFINITION. exec: the meaning of each instruction (rules R148, R150), one arm per constructor of Instr. -/

namespace Sys2Proof.Machine

def exec (i : Instr) (s : State) : Host.Outcome State Fault Refusal :=
  match i with
  | .add d a b => Sys2Proof.Machine.execAdd d a b s
  | .sub d a b => Sys2Proof.Machine.execSub d a b s
  | .and d a b => Sys2Proof.Machine.execAnd d a b s
  | .or d a b => Sys2Proof.Machine.execOr d a b s
  | .xor d a b => Sys2Proof.Machine.execXor d a b s
  | .nopa5 d a b => Sys2Proof.Machine.execNopa5 d a b s
  | .nopa6 d a b => Sys2Proof.Machine.execNopa6 d a b s
  | .nopa7 d a b => Sys2Proof.Machine.execNopa7 d a b s
  | .nopa8 d a b => Sys2Proof.Machine.execNopa8 d a b s
  | .nopa9 d a b => Sys2Proof.Machine.execNopa9 d a b s
  | .nopa10 d a b => Sys2Proof.Machine.execNopa10 d a b s
  | .nopa11 d a b => Sys2Proof.Machine.execNopa11 d a b s
  | .nopa12 d a b => Sys2Proof.Machine.execNopa12 d a b s
  | .nopa13 d a b => Sys2Proof.Machine.execNopa13 d a b s
  | .nopa14 d a b => Sys2Proof.Machine.execNopa14 d a b s
  | .nopa15 d a b => Sys2Proof.Machine.execNopa15 d a b s
  | .nopd0 r a x => Sys2Proof.Machine.execNopd0 r a x s
  | .nopd1 r a x => Sys2Proof.Machine.execNopd1 r a x s
  | .nopd2 r a x => Sys2Proof.Machine.execNopd2 r a x s
  | .nopd3 r a x => Sys2Proof.Machine.execNopd3 r a x s
  | .nopd4 r a x => Sys2Proof.Machine.execNopd4 r a x s
  | .load r a x => Sys2Proof.Machine.execLoad r a x s
  | .store r a x => Sys2Proof.Machine.execStore r a x s
  | .nopd7 r a x => Sys2Proof.Machine.execNopd7 r a x s
  | .nopd8 r a x => Sys2Proof.Machine.execNopd8 r a x s
  | .nopd9 r a x => Sys2Proof.Machine.execNopd9 r a x s
  | .nopd10 r a x => Sys2Proof.Machine.execNopd10 r a x s
  | .nopd11 r a x => Sys2Proof.Machine.execNopd11 r a x s
  | .nopd12 r a x => Sys2Proof.Machine.execNopd12 r a x s
  | .nopd13 r a x => Sys2Proof.Machine.execNopd13 r a x s
  | .nopd14 r a x => Sys2Proof.Machine.execNopd14 r a x s
  | .nopd15 r a x => Sys2Proof.Machine.execNopd15 r a x s

end Sys2Proof.Machine
end

