-- ==== Sys2Proof/Machine/Step.lean ====
section
/-! DEFINITION. The step of the core (rule R150). -/

namespace Sys2Proof.Machine

/-- One step (rules R140, R141, R150): defined only while RUNNING. A meaning advances the pc itself where its
instruction completes, so nothing is added around exec. -/
def step (s : State) : Host.Outcome State Fault Refusal :=
  match s.run with
  | .load => .fault .notStarted
  | .halted => .fault .coreHalted
  | .running =>
    match s.fetch with
    | .atBound => .next (s.halt .bound)
    | .empty => .next (s.halt .emptyCell)
    | .instr w => exec (decode w) s

/-- `s` with the instruction whose low `nbits` bits are those of `w` placed where the next step fetches, and the
sequencer RUNNING, which a fetch needs. From reset this stands for the host's `load_program` and `start`. -/
def State.withFetchWord (s : State) (nbits w : Nat) : State :=
  s.aboutToFetch (BitVec.ofNat 16 (w % 2 ^ nbits))

end Sys2Proof.Machine
end

