-- ==== Sys2Proof/Machine/Pseudo.lean ====
section
/-! DEFINITION. The pseudo-instructions of rule R91: names of the spec's own for one or two instructions. -/

namespace Sys2Proof.Machine

/-- The pseudo-instructions (rule R91). -/
inductive Pseudo where
  /-- NOP. -/
  | nop
  /-- CLR Rd. -/
  | clr (d : Reg)
  /-- MOV Rd, Rs. -/
  | mov (d r : Reg)
  /-- NEG Rd, Rs. -/
  | neg (d r : Reg)
  /-- LI Rd, #k, with k in 0 to 15. -/
  | li (d : Reg) (k : Nat)
  deriving DecidableEq, Repr

/-- The instructions a pseudo-instruction stands for (rule R91). -/
def Pseudo.expand : Pseudo → List Instr
  | .nop => [.nopa15 .r0 (.reg 0) .r0]
  | .clr d => [.xor d (.reg d.index) d]
  | .mov d r => [.or d (.reg r.index) r]
  | .neg d r => [.sub d (.imm 0) r]
  | .li d k => [.xor d (.reg d.index) d, .add d (.imm k) d]

/-- Instructions executed one after another, as steps at successive addresses do. -/
def execSeq : List Instr → State → Result
  | [], s => .next s
  | i :: is, s =>
    match exec i s with
    | .next t => execSeq is t
    | .fault f => .fault f
    | .refused r => .refused r

end Sys2Proof.Machine
end

