-- ==== Sys2Proof/Machine/Blocks.lean ====
section
/-! DEFINITION. The seven blocks of the core with the ports of rules R37, R77, R111, R134 and R155, and one cycle of
the core put together from them. The partition is not observable by a program (92_eei_decisions.md D21); it is a
second, hardware-shaped account of the step, beside step itself. Where a rule gives no value for a port, the wiring
here is the model's choice or a free value: notes/assumptions/9.md lists every such point. -/

namespace Sys2Proof.Machine

/-- A 17-bit cell value: the valid bit, then the 16 data bits (rules R12, R37). The valid bit is bit 16. -/
abbrev CellBits := BitVec (1 + Config.w)

/-- The 17 bits of a cell. The data bits of EMPTY are open, and `free` stands for them (93_implementation_defined.md
I7). -/
def cellBits (free : Word) : Cell → CellBits
  | .empty => 0#1 ++ free
  | .word w => 1#1 ++ w

/-- The valid bit of a 17-bit cell value (rule R37). -/
def CellBits.valid (p : CellBits) : Bool :=
  p.getLsbD Config.w

/-- The 16 data bits of a 17-bit cell value (rule R37). -/
def CellBits.data (p : CellBits) : Word :=
  p.extractLsb' 0 Config.w

/-- The cell that 17 bits stand for: valid = 0 means EMPTY, whatever the data bits (rule R12). -/
def CellBits.cell (p : CellBits) : Cell :=
  if CellBits.valid p then .word (CellBits.data p) else .empty

/-- The 16 bits the ALU reads from a cell port: the data bits, or 0 for EMPTY (rule R16). -/
def CellBits.value (p : CellBits) : Word :=
  if CellBits.valid p then CellBits.data p else 0

/-- A read port of the memory array: the cell at an address, EMPTY where the address names none. -/
def memoryRead (m : Memory) (a : Nat) : CellBits :=
  cellBits (Config.emptyDataBits a) (m.read a)

/-- The outputs of the fetch_unit (rule R155). -/
structure FetchOut where
  instr : Word
  fetchEmpty : Bool
  atBound : Bool

/-- fetch_unit (rules R143, R144, R155). At the bound it reads no cell, so `fetch_empty` is not raised there (the
model's reading of R143, notes/assumptions/9.md). -/
def fetchUnit (pc : BitVec Config.pcw) (memCell : CellBits) : FetchOut where
  instr := CellBits.data memCell
  fetchEmpty := !CellBits.valid memCell && !decide (Config.nmem ≤ pc.toNat)
  atBound := decide (Config.nmem ≤ pc.toNat)

/-- A read port of the register_file: the cell of the register at `idx` (rule R37). -/
def registerRead (x : RegFile) (idx : BitVec 3) : CellBits :=
  cellBits (Config.emptyRegisterBits idx) (x.get (Reg.ofBits idx))

/-- The write port of the register_file: signals `w_en`, `w_idx`, `w_cell` (rule R37). -/
def registerWrite (x : RegFile) (wEn : Bool) (wIdx : BitVec 3) (wCell : CellBits) : RegFile :=
  if wEn then x.set (Reg.ofBits wIdx) (CellBits.cell wCell) else x

/-- The index on read port A (rule R37): operand1 for a data-transfer word (STORE's source; rule R134 reads port A at
r), operand2[2:0] for an ALU word with i = 0. For an ALU word with i = 1 no rule gives one, and it is a free value
(notes/assumptions/9.md). -/
def readIndexA (f : Fields) : BitVec 3 :=
  if f.t then f.op1 else if f.i then Config.idleReadIndex f.op2 else f.op2.extractLsb' 0 3

/-- The outputs of the alu_executor (rule R111). -/
structure AluOut where
  result : Word
  wEn : Bool
  fault : Bool

/-- alu_executor (rule R111): the five operations on 16-bit words, `w_en` for the opcodes 0 to 4, and `fault` for
i = 0 with operand2[3] = 1. Where `fault` = 1, and for the opcodes 5 to 15, no rule gives the result port a value, and
it is a free value (notes/assumptions/9.md). -/
def aluExecutor (opcode : BitVec 4) (i : Bool) (imm : BitVec Config.immw) (raCell rbCell : CellBits) : AluOut :=
  let x : Word := if i then imm.setWidth Config.w else CellBits.value raCell
  let y : Word := CellBits.value rbCell
  let fault := !i && imm.getLsbD 3
  { result :=
      if fault then Config.idleAluResult opcode
      else if opcode = 0 then x + y
      else if opcode = 1 then x - y
      else if opcode = 2 then x &&& y
      else if opcode = 3 then x ||| y
      else if opcode = 4 then x ^^^ y
      else Config.idleAluResult opcode
    wEn := opcode.ule 4
    fault := fault }

/-- The outputs of the load_store_unit (rule R134). -/
structure LoadStoreOut where
  wEn : Bool
  wIdx : BitVec 3
  wCell : CellBits
  mEn : Bool
  mAddr : BitVec 4
  mData : CellBits

/-- load_store_unit (rule R134). -/
def loadStoreUnit (opcode : BitVec 4) (r : BitVec 3) (a : BitVec 4) (raCell mCell : CellBits) : LoadStoreOut where
  wEn := opcode = 5
  wIdx := r
  wCell := mCell
  mEn := opcode = 6
  mAddr := a
  mData := raCell

/-- program_counter (rules R145, R155). `pc_clear` and `pc_inc` are never both 1: the sequencer asserts `pc_inc` only
in a step, and there is none in the cycle of start or reset. -/
def programCounter (pc : BitVec Config.pcw) (pcInc pcClear : Bool) : BitVec Config.pcw :=
  if pcClear then 0 else if pcInc then pc + 1 else pc

/-- The inputs of the control_sequencer (rule R155). -/
structure SequencerIn where
  start : Bool
  reset : Bool
  atBound : Bool
  fetchEmpty : Bool
  aluFault : Bool
  badIdx : BitVec 4

/-- The outputs of the control_sequencer: the next sequencer state and STATUS, and its strobes (rule R155). -/
structure SequencerOut where
  run : RunState
  status : BitVec 16
  pcInc : Bool
  pcClear : Bool
  execEn : Bool

/-- Whether a step is taken in this cycle: only while RUNNING, and not where reset abandons the run
(rules R140, R186). That reset wins over the step of its cycle is the model's choice (DESIGN CHOICE,
notes/assumptions/9.md). -/
def stepTaken (run : RunState) (p : SequencerIn) : Bool :=
  run == .running && !p.reset

/-- Whether the `start` signal acts: only in LOAD (rules R187, R188), and not against reset, which wins over start in
one cycle by the model's choice (DESIGN CHOICE, notes/assumptions/9.md). -/
def startTaken (run : RunState) (p : SequencerIn) : Bool :=
  run == .load && p.start && !p.reset

/-- `pc_inc`: in a RUNNING step, exactly when none of `at_bound`, `fetch_empty` and `alu_fault` is set (rule R155). -/
def incTaken (run : RunState) (p : SequencerIn) : Bool :=
  stepTaken run p && !p.atBound && !p.fetchEmpty && !p.aluFault

/-- control_sequencer (rules R140 to R143, R155, R165, R171, R172): the checks in their order, bound first, then the
empty cell, then the fault. -/
def controlSequencer (run : RunState) (status : BitVec 16) (p : SequencerIn) : SequencerOut where
  run :=
    if p.reset then .load
    else if startTaken run p then .running
    else if stepTaken run p && (p.atBound || p.fetchEmpty || p.aluFault) then .halted
    else run
  status :=
    if p.reset then 0
    else if startTaken run p then setStatusRun status RunState.running.code
    else if stepTaken run p then
      if p.atBound then setStatusHaltReason (setStatusRun status RunState.halted.code) HaltReason.bound.code
      else if p.fetchEmpty then
        setStatusHaltReason (setStatusRun status RunState.halted.code) HaltReason.emptyCell.code
      else if p.aluFault then
        setStatusBadIdx (setStatusHaltReason (setStatusRun status RunState.halted.code) HaltReason.fault.code) p.badIdx
      else status
    else status
  pcInc := incTaken run p
  pcClear := p.reset || startTaken run p
  execEn := incTaken run p

/-- One cycle of the core, wired from the blocks: fetch, decode, the two register read ports, both executors, the
sequencer, and the writes it enables (rules R141, R148, R155). `start` and `reset` are the host's signals. Reset
clears every piece of state (rule R185). The ports that no rule gives a value in some cycle carry what
notes/assumptions/9.md lists. -/
def blockCycle (start reset : Bool) (s : State) : State :=
  let f := fetchUnit s.pc (memoryRead s.mem s.pc.toNat)
  let d := fieldsOf f.instr
  let raCell := registerRead s.regs (readIndexA d)
  let rbCell := registerRead s.regs d.op3
  let alu := aluExecutor d.opcode d.i d.op2 raCell rbCell
  let lsu := loadStoreUnit d.opcode d.op1 d.op2 raCell (memoryRead s.mem d.op2.toNat)
  let q := controlSequencer s.run s.status
    { start := start, reset := reset, atBound := f.atBound, fetchEmpty := f.fetchEmpty,
      aluFault := !d.t && alu.fault, badIdx := d.op2 }
  if reset then { State.reset with run := q.run, status := q.status, pc := programCounter s.pc q.pcInc q.pcClear }
  else
    { s with
      regs :=
        registerWrite s.regs (q.execEn && (if d.t then lsu.wEn else alu.wEn)) (if d.t then lsu.wIdx else d.op1)
          (if d.t then lsu.wCell else 1#1 ++ alu.result)
      mem := if q.execEn && d.t && lsu.mEn then s.mem.write lsu.mAddr.toNat (CellBits.cell lsu.mData) else s.mem
      pc := programCounter s.pc q.pcInc q.pcClear
      run := q.run
      status := q.status }

end Sys2Proof.Machine
end

