-- ==== Sys2Proof/Machine/HostPort.lean ====
section
/-! DEFINITION. The host interface (70_reset_and_hazards.md, rules R185 to R200): the commands, the states that admit
them, their effects and replies, and the host adapter that checks the text form of what is loaded. -/

namespace Sys2Proof.Machine

/-- The host's commands, on binary words (rule R187). -/
inductive Command where
  /-- Any state. -/
  | reset
  /-- LOAD: the program's words in order, from address 0. -/
  | loadProgram (words : List Word)
  /-- LOAD, after `load_program`: (address, word) pairs in order. -/
  | loadData (pairs : List (Nat × Word))
  /-- LOAD. -/
  | start
  /-- Any state. -/
  | readStatus
  /-- HALTED. -/
  | readResults
  /-- HALTED: the cell of an address 0 to 39, below `NMEM`. -/
  | readMemory (a : Fin Config.nmem)
  /-- HALTED. -/
  | readPc
  deriving DecidableEq, Repr

/-- Why the host is told that a command was refused. -/
inductive HostError where
  /-- The command was issued in a state that does not admit it (rule R188). -/
  | notAdmitted
  /-- MalformedWordError: a string that is not of the exact length, or holds a character other than '0' and '1'
  (rule R196). -/
  | malformedWord
  /-- A data-load address that the data loader does not reach (rules R168, R194, R195). No 4-digit address is one. -/
  | addressOutOfRange
  deriving DecidableEq, Repr

/-- What the host gets back (rule R187). -/
inductive Reply where
  /-- Nothing: the command was carried out. -/
  | done
  /-- STATUS. -/
  | status (w : BitVec 16)
  /-- The eight register values, in register-index order (rule R200). -/
  | results (values : List Nat)
  /-- A memory cell, with its EMPTY flag (rule R200). -/
  | cell (c : Cell)
  /-- The pc (rule R200). -/
  | pc (value : BitVec Config.pcw)
  /-- The command was refused and changed no state (rule R188). -/
  | refused (why : HostError)
  deriving DecidableEq, Repr

/-- The column "admitted in" of rule R187. -/
def Command.admitted (c : Command) (s : State) : Bool :=
  match c with
  | .reset => true
  | .loadProgram _ => s.run == .load
  | .loadData _ => s.run == .load && s.programLoaded
  | .start => s.run == .load
  | .readStatus => true
  | .readResults => s.run == .halted
  | .readMemory _ => s.run == .halted
  | .readPc => s.run == .halted

/-- Words written one after another from address `a` up (rule R192). -/
def Memory.writeWords (m : Memory) (a : Nat) : List Word → Memory
  | [] => m
  | w :: ws => Memory.writeWords (Memory.write m a (.word w)) (a + 1) ws

/-- Pairs written in order, so that the later of two with one address wins (rules R194, R195). -/
def Memory.writePairs (m : Memory) : List (Nat × Word) → Memory
  | [] => m
  | p :: ps => Memory.writePairs (Memory.write m p.1 (.word p.2)) ps

/-- The program loader (rules R192, R193): at most 40 words are written, from address 0; the rest are ignored. -/
def State.loadProgram (s : State) (words : List Word) : State :=
  { s with mem := s.mem.writeWords 0 (words.take Config.plMax), programLoaded := true }

/-- The data loader (rules R194, R195). -/
def State.loadData (s : State) (pairs : List (Nat × Word)) : State :=
  { s with mem := s.mem.writePairs pairs }

/-- The result reporter's eight values (rule R200). -/
def State.results (s : State) : List Nat :=
  [.r0, .r1, .r2, .r3, .r4, .r5, .r6, .r7].map fun r => val (s.readReg r)

/-- What a command does and answers in a state that admits it (rules R185, R187, R190 to R195, R200). -/
def Command.effect (c : Command) (s : State) : Reply × State :=
  match c with
  | .reset => (.done, State.reset)
  | .loadProgram words => (.done, s.loadProgram words)
  | .loadData pairs =>
    if pairs.all fun p => p.1 < Config.dlReach then (.done, s.loadData pairs)
    else (.refused .addressOutOfRange, s)
  | .start => (.done, s.start)
  | .readStatus => (.status s.status, s)
  | .readResults => (.results s.results, s)
  | .readMemory a => (.cell (s.mem.read a), s)
  | .readPc => (.pc s.pc, s)

/-- A command issued to the core: carried out where it is admitted, refused with no change of state where it is not
(rules R187, R188). -/
def command (c : Command) (s : State) : Reply × State :=
  if c.admitted s then c.effect s else (.refused .notAdmitted, s)

/-- What the host sends through its adapter: strings where words are loaded, a command otherwise (rules R187, R196). -/
inductive Request where
  /-- `load_program` with one string for each word. -/
  | loadProgram (lines : List (List Char))
  /-- `load_data` with an address string and a value string for each pair. -/
  | loadData (pairs : List (List Char × List Char))
  /-- A command that carries no string. -/
  | plain (c : Command)
  deriving DecidableEq, Repr

/-- The program words of the strings; none where one is malformed (rule R196). Every string is checked, those beyond
the 40th included, whose words rule R193 ignores: no rule says which of the two wins for a malformed string there, and
refusing the command is the model's choice (DESIGN CHOICE, notes/assumptions/18.md). -/
def wordsOfText : List (List Char) → Option (List Word)
  | [] => some []
  | cs :: rest =>
    match wordOfText cs, wordsOfText rest with
    | some w, some ws => some (w :: ws)
    | _, _ => none

/-- The data pairs of the strings; none where one is malformed (rules R194, R196). -/
def pairsOfText : List (List Char × List Char) → Option (List (Nat × Word))
  | [] => some []
  | cs :: rest =>
    match addressOfText cs.1, wordOfText cs.2, pairsOfText rest with
    | some a, some w, some ps => some ((a, w) :: ps)
    | _, _, _ => none

/-- The host adapter: every string is checked before it is converted, and a malformed one makes the whole request
malformed (rule R196). -/
def Request.toCommand : Request → Option Command
  | .loadProgram lines => (wordsOfText lines).map .loadProgram
  | .loadData pairs => (pairsOfText pairs).map .loadData
  | .plain c => some c

/-- A request as the hardware and its adapter answer it: a malformed one is refused and writes no cell
(rules R188, R196). -/
def request (r : Request) (s : State) : Reply × State :=
  match r.toCommand with
  | none => (.refused .malformedWord, s)
  | some c => command c s

end Sys2Proof.Machine
end

