-- ==== Sys2Proof/Safety.lean ====
section
/-! DEFINITION. What the claims speak of: runs, reachable states, how a run ends, and the facts that hold of every
reachable state. -/

namespace Sys2Proof.Machine

/-- The state after at most `n` steps: a state that has no next state is kept, as HALTED is frozen (rules R149,
R199). The host makes no move in it (rule R188, decision D7, notes/assumptions/10.md). -/
def runFor : Nat → State → State
  | 0, s => s
  | n + 1, s =>
    match step s with
    | .next s' => runFor n s'
    | .fault _ => s
    | .refused _ => s

/-- The state can arise: from reset by the host's requests and the core's steps (rules R185 to R190). -/
inductive Reachable : State → Prop where
  | reset : Reachable State.reset
  | step {s s' : State} : Reachable s → Machine.step s = .next s' → Reachable s'
  | request {s : State} (r : Request) : Reachable s → Reachable (Machine.request r s).2

/-- The state RegisterIndexFault leaves (rule R171): HALTED, STATUS with RUN = 10, HALT_REASON = 11 and BADIDX the bad
index, its reserved bits as they were, and nothing else changed. -/
def State.faultedWith (s : State) (index : BitVec 4) : State :=
  { s with run := .halted, status := statusPack (statusReserved s.status) index 0b11#2 0b10#2 }

/-- The state an instruction leaves that changes nothing but the pc (rule R145). -/
def State.onlyPcAdvanced (s : State) : State :=
  { s with pc := s.pc + 1 }

/-- The state an ALU instruction leaves (rule R101): the word of `v` in register `d`, the pc one further, and nothing
else changed. -/
def State.withResult (s : State) (d : Reg) (v : Nat) : State :=
  { s with regs := s.regs.set d (.word (BitVec.ofNat 16 v)), pc := s.pc + 1 }

/-- sourceA as bits 10 and 6:3 of a word give it (rules R76, R79). -/
def wordSourceA (w : Word) : SourceA :=
  if w.getLsbD 10 then .imm (w.extractLsb' 3 4).toNat else .reg (w.extractLsb' 3 4).toNat

/-- The words that match `code` under the mask 0xF800 are the ALU instruction `mk` with the fields of rule R76. -/
def AluEncoding (mk : Reg → SourceA → Reg → Instr) (code : Word) : Prop :=
  ∀ w : Word, w &&& 0xF800#16 = code →
    decode w = mk (Reg.ofBits (w.extractLsb' 7 3)) (wordSourceA w) (Reg.ofBits (w.extractLsb' 0 3))

/-- The words that match `code` under the mask 0xF800 are the data-transfer instruction `mk` with the fields of rule
R76 and the ignored bits of rule R83. -/
def DtEncoding (mk : Reg → Nat → Spare → Instr) (code : Word) : Prop :=
  ∀ w : Word, w &&& 0xF800#16 = code →
    decode w = mk (Reg.ofBits (w.extractLsb' 7 3)) (w.extractLsb' 3 4).toNat ⟨w.getLsbD 10, w.extractLsb' 0 3⟩

/-- What one of the rules R102, R104, R106, R107, R108 says of its instruction `mk`, with match value `code` and result
`f A B`: its words, its result with a literal and with a register as sourceA, and its one exception. -/
def AluRule (mk : Reg → SourceA → Reg → Instr) (code : Word) (f : Nat → Nat → Nat) : Prop :=
  AluEncoding mk code ∧
  (∀ (d : Reg) (k : Nat) (b : Reg) (s : State), k < 16 →
    exec (mk d (.imm k) b) s = .next (s.withResult d (f k (val (s.regs.get b))))) ∧
  (∀ (d r b : Reg) (s : State),
    exec (mk d (.reg r.index) b) s = .next (s.withResult d (f (val (s.regs.get r)) (val (s.regs.get b))))) ∧
  (∀ (d : Reg) (n : Nat) (b : Reg) (s : State), 8 ≤ n → n < 16 →
    exec (mk d (.reg n) b) s = .next (s.faultedWith (BitVec.ofNat 4 n)))

/-- The defined ALU instructions, opcodes 0 to 4. -/
def aluDefined (d : Reg) (a : SourceA) (b : Reg) : List Instr :=
  [.add d a b, .sub d a b, .and d a b, .or d a b, .xor d a b]

/-- The ALU no-ops, opcodes 5 to 15. -/
def aluNoops (d : Reg) (a : SourceA) (b : Reg) : List Instr :=
  [.nopa5 d a b, .nopa6 d a b, .nopa7 d a b, .nopa8 d a b, .nopa9 d a b, .nopa10 d a b, .nopa11 d a b, .nopa12 d a b,
    .nopa13 d a b, .nopa14 d a b, .nopa15 d a b]

/-- The data-transfer no-ops, opcodes 0 to 4 and 7 to 15. -/
def dtNoops (r : Reg) (a : Nat) (x : Spare) : List Instr :=
  [.nopd0 r a x, .nopd1 r a x, .nopd2 r a x, .nopd3 r a x, .nopd4 r a x, .nopd7 r a x, .nopd8 r a x, .nopd9 r a x,
    .nopd10 r a x, .nopd11 r a x, .nopd12 r a x, .nopd13 r a x, .nopd14 r a x, .nopd15 r a x]

/-- The five components of rule R30 agree; the host interface's own bit may differ. -/
def State.sameCore (s t : State) : Prop :=
  s.regs = t.regs ∧ s.mem = t.mem ∧ s.pc = t.pc ∧ s.run = t.run ∧ s.status = t.status

/-- A string the host adapter refuses as a field of `width` digits (rule R196): the wrong length, or a character that
is neither '0' nor '1'. -/
def malformed (width : Nat) (cs : List Char) : Prop :=
  cs.length ≠ width ∨ ∃ c ∈ cs, c ≠ '0' ∧ c ≠ '1'

/-- A run ended on RegisterIndexFault, the spec's reading of behaviour the original leaves undefined: no successful end
(60_exceptions.md section 6, rule R198). -/
def State.endedInFault (s : State) : Prop :=
  s.run = .halted ∧ statusHaltReason s.status = HaltReason.fault.code

/-- A run ended by one of the two normal halts (rule R166). -/
def State.endedNormally (s : State) : Prop :=
  s.run = .halted ∧
    (statusHaltReason s.status = HaltReason.emptyCell.code ∨ statusHaltReason s.status = HaltReason.bound.code)

/-- A word that raises RegisterIndexFault: t = 0, i = 0 and operand2 in 8 to 15 (rules R82, R170). -/
def faultingWord (w : Word) : Prop :=
  w.getLsbD 15 = false ∧ w.getLsbD 10 = false ∧ 8 ≤ (w.extractLsb' 3 4).toNat

/-- STATUS as the rules of 10_state.md section 6 give it beside the sequencer state (rules R45, R165). -/
structure State.StatusOk (s : State) : Prop where
  /-- RUN mirrors the sequencer state; 11 never occurs. -/
  run_mirrors : statusRun s.status = s.run.code
  /-- Bits 15:8 are always 0. -/
  reserved_zero : statusReserved s.status = 0
  /-- HALT_REASON is 00 exactly when not halted. -/
  reason_iff : statusHaltReason s.status = HaltReason.none.code ↔ s.run ≠ .halted
  /-- BADIDX is 8 to 15 after the fault. -/
  badIdx_fault : statusHaltReason s.status = HaltReason.fault.code → 8 ≤ (statusBadIdx s.status).toNat
  /-- BADIDX is 0 otherwise. -/
  badIdx_zero : statusHaltReason s.status ≠ HaltReason.fault.code → statusBadIdx s.status = 0

/-- Where a halted core stopped, by its HALT_REASON (rules R142, R143, R170): an EMPTY cell below the bound, the bound,
or a faulting word whose operand2 STATUS.BADIDX repeats. -/
structure State.HaltOk (s : State) : Prop where
  emptyCell : statusHaltReason s.status = HaltReason.emptyCell.code →
    s.pc.toNat < 40 ∧ s.mem.read s.pc.toNat = .empty
  bound : statusHaltReason s.status = HaltReason.bound.code → s.pc.toNat = 40
  fault : statusHaltReason s.status = HaltReason.fault.code →
    ∃ w, s.mem.read s.pc.toNat = .word w ∧ faultingWord w ∧ w.extractLsb' 3 4 = statusBadIdx s.status

/-- What holds of every reachable state: the memory's canonical form (rule R40), the pc's range (rules R43, R147),
STATUS, where a halted core stopped, and the LOAD state's registers and pc (rules R185, R189, R190). -/
structure State.Inv (s : State) : Prop where
  mem_wf : s.mem.wf
  pc_range : s.pc.toNat ≤ 40
  status_ok : s.StatusOk
  halt_ok : s.HaltOk
  load_regs : s.run = .load → s.regs = RegFile.reset ∧ s.pc = 0

end Sys2Proof.Machine
end

