-- ==== Sys2Proof/Certificates/Slice0/Obligations.lean ====
section
/-! DEFINITION. The statements about this machine that are to be proved, each from the rule of spec/ its docstring
names. -/

open Sys2Proof Sys2Proof.Machine

/-! ## Encoding -/

/-- Words of rules R92 and R93, written from the encoding, and the instructions they are. -/
def Obligations.WrittenWordsDecode : Prop :=
  decode 0x0428#16 = .add .r0 (.imm 5) .r0 ∧
  decode 0x098A#16 = .sub .r3 (.reg 1) .r2 ∧
  decode 0x1EFC#16 = .or .r5 (.imm 15) .r4 ∧
  decode 0x2800#16 = .nopa5 .r0 (.reg 0) .r0 ∧
  decode 0x7BFF#16 = .nopa15 .r7 (.reg 15) .r7 ∧
  decode 0x8000#16 = .nopd0 .r0 0 ⟨false, 0⟩ ∧
  decode 0xA8E0#16 = .load .r1 12 ⟨false, 0⟩ ∧
  decode 0xB050#16 = .store .r0 10 ⟨false, 0⟩ ∧
  decode 0xFFFF#16 = .nopd15 .r7 15 ⟨true, 7⟩

/-- Rule R84 with the opcodes of rule R85: the bits of every instruction's word, as a number. -/
def Obligations.EncodingFormulas : Prop :=
  (∀ (d b : Reg) (k : Nat), k < 16 →
    ∀ p ∈ (aluDefined d (.imm k) b ++ aluNoops d (.imm k) b).zipIdx,
      (encode p.1).toNat = (0 <<< 15) ||| (p.2 <<< 11) ||| (1 <<< 10) ||| (d.index <<< 7) ||| (k <<< 3) ||| b.index) ∧
  (∀ (d b : Reg) (n : Nat), n < 16 →
    ∀ p ∈ (aluDefined d (.reg n) b ++ aluNoops d (.reg n) b).zipIdx,
      (encode p.1).toNat = (0 <<< 15) ||| (p.2 <<< 11) ||| (0 <<< 10) ||| (d.index <<< 7) ||| (n <<< 3) ||| b.index) ∧
  (∀ (r : Reg) (a : Nat) (x : Spare), a < 16 →
    ∀ p ∈ [(Instr.nopd0 r a x, 0), (.nopd1 r a x, 1), (.nopd2 r a x, 2), (.nopd3 r a x, 3), (.nopd4 r a x, 4),
        (.load r a x, 5), (.store r a x, 6), (.nopd7 r a x, 7), (.nopd8 r a x, 8), (.nopd9 r a x, 9),
        (.nopd10 r a x, 10), (.nopd11 r a x, 11), (.nopd12 r a x, 12), (.nopd13 r a x, 13), (.nopd14 r a x, 14),
        (.nopd15 r a x, 15)],
      (encode p.1).toNat =
        (1 <<< 15) ||| (p.2 <<< 11) ||| (x.i.toNat <<< 10) ||| (r.index <<< 7) ||| (a <<< 3) ||| x.op3.toNat)

/-- Every well-formed instruction's word decodes to it, every operand at every value of its field (rules R77, R84). -/
def Obligations.DecodeEncodeRoundTrip : Prop :=
  ∀ i : Instr, i.wellFormed = true → decode (encode i) = i

/-- Every one of the 65536 words is the encoding of the instruction it decodes to: no bit is dropped, and decoding and
encoding are inverses (rules R77, R84, R87). -/
def Obligations.EncodeDecodeRoundTrip : Prop :=
  ∀ w : Word, encode (decode w) = w

/-- The decoder matches bits 15:11 (rule R85), and every word is a well-formed instruction (rules R77, R86). -/
def Obligations.EveryWordDecodes : Prop :=
  ∀ w : Word, (decode w).code = w.extractLsb' 11 5 ∧ (decode w).wellFormed = true

/-- Rule R132: the address of every LOAD and STORE that a word holds is the number in bits 6:3, at most 15, and so a
cell. -/
def Obligations.DataAddressAlwaysValid : Prop :=
  ∀ (w : Word) (r : Reg) (a : Nat) (x : Spare), decode w = .load r a x ∨ decode w = .store r a x →
    a = (w.extractLsb' 3 4).toNat ∧ a ≤ 15 ∧ a < Config.nmem

/-! ## ALU family -/

/-- Rule R102. -/
def Obligations.AddRule : Prop :=
  AluRule .add 0x0000#16 fun x y => (x + y) % 65536

/-- Rule R104, with the wrap of rule R105: for values below 2^16 the difference modulo 2^16 is `x + 65536 - y`
modulo 2^16. -/
def Obligations.SubRule : Prop :=
  AluRule .sub 0x0800#16 fun x y => (x + 65536 - y) % 65536

/-- Rule R105: the default policy wraps a negative difference; the model-only policy `fault` stops the run on one, and
on nothing else. -/
def Obligations.NegativeDifferencePolicy : Prop :=
  (∀ x y : Nat, x < 65536 → y < 65536 → x < y →
    subtract Config.subNegPolicy x y = .write (.word (BitVec.ofNat 16 (x + 65536 - y))) ∧
    subtract .fault x y = .stop .negativeDifference) ∧
  (∀ x y : Nat, x < 65536 → y ≤ x →
    subtract Config.subNegPolicy x y = .write (.word (BitVec.ofNat 16 (x - y))) ∧
    subtract .fault x y = .write (.word (BitVec.ofNat 16 (x - y))))

/-- Rule R106. -/
def Obligations.AndRule : Prop :=
  AluRule .and 0x1000#16 fun x y => x &&& y

/-- Rule R107. -/
def Obligations.OrRule : Prop :=
  AluRule .or 0x1800#16 fun x y => x ||| y

/-- Rule R108. -/
def Obligations.XorRule : Prop :=
  AluRule .xor 0x2000#16 fun x y => x ^^^ y

/-- Rule R110: NOPA5 to NOPA15 advance the pc and change nothing else, with a literal and with a register that
exists; with an index of 8 to 15 they fault; operand1 is ignored; and their words are `n << 11` under the mask. -/
def Obligations.AluNoopRule : Prop :=
  (∀ (d : Reg) (k : Nat) (b : Reg) (s : State), k < 16 →
    ∀ i ∈ aluNoops d (.imm k) b, exec i s = .next s.onlyPcAdvanced) ∧
  (∀ (d r b : Reg) (s : State), ∀ i ∈ aluNoops d (.reg r.index) b, exec i s = .next s.onlyPcAdvanced) ∧
  (∀ (d : Reg) (n : Nat) (b : Reg) (s : State), 8 ≤ n → n < 16 →
    ∀ i ∈ aluNoops d (.reg n) b, exec i s = .next (s.faultedWith (BitVec.ofNat 4 n))) ∧
  AluEncoding .nopa5 0x2800#16 ∧ AluEncoding .nopa6 0x3000#16 ∧ AluEncoding .nopa7 0x3800#16 ∧
  AluEncoding .nopa8 0x4000#16 ∧ AluEncoding .nopa9 0x4800#16 ∧ AluEncoding .nopa10 0x5000#16 ∧
  AluEncoding .nopa11 0x5800#16 ∧ AluEncoding .nopa12 0x6000#16 ∧ AluEncoding .nopa13 0x6800#16 ∧
  AluEncoding .nopa14 0x7000#16 ∧ AluEncoding .nopa15 0x7800#16

/-- The frame of ADD, SUB, AND, OR and XOR (rule R101): the destination is a word afterwards; every other register,
every memory cell and the host interface's bit are as before; and either the sequencer state and STATUS are as
before, or the core has halted with every register, the pc and STATUS's reserved bits as before. -/
def Obligations.AluDefinedFrame : Prop :=
  ∀ (d : Reg) (a : SourceA) (b : Reg) (s t : State), ∀ i ∈ aluDefined d a b, exec i s = .next t →
    (∀ r : Reg, r ≠ d → t.regs.get r = s.regs.get r) ∧
    (∀ k : Nat, t.mem.read k = s.mem.read k) ∧
    t.programLoaded = s.programLoaded ∧
    ((t.run = s.run ∧ t.status = s.status ∧ ∃ w, t.regs.get d = .word w) ∨
      (t.run = .halted ∧ t.regs = s.regs ∧ t.pc = s.pc ∧ statusReserved t.status = statusReserved s.status))

/-- The frame of the no-ops of both families (rules R110, R130): no register and no memory cell changes; the sequencer
state and STATUS change only where an ALU no-op faults, and there the pc and STATUS's reserved bits stay. -/
def Obligations.NoopFrame : Prop :=
  (∀ (d : Reg) (a : SourceA) (b : Reg) (s t : State), ∀ i ∈ aluNoops d a b, exec i s = .next t →
    (∀ r : Reg, t.regs.get r = s.regs.get r) ∧ (∀ k : Nat, t.mem.read k = s.mem.read k) ∧
    t.programLoaded = s.programLoaded ∧
    ((t.run = s.run ∧ t.status = s.status) ∨
      (t.run = .halted ∧ t.pc = s.pc ∧ statusReserved t.status = statusReserved s.status))) ∧
  (∀ (r : Reg) (a : Nat) (x : Spare) (s t : State), ∀ i ∈ dtNoops r a x, exec i s = .next t →
    (∀ q : Reg, t.regs.get q = s.regs.get q) ∧ (∀ k : Nat, t.mem.read k = s.mem.read k) ∧
    t.programLoaded = s.programLoaded ∧ t.run = s.run ∧ t.status = s.status)

/-- Rule R91: what each pseudo-instruction's expansion does, and that NOP is the word 0x7800. -/
def Obligations.PseudoInstructionEffects : Prop :=
  Pseudo.nop.expand.map encode = [0x7800#16] ∧
  (∀ s : State, execSeq Pseudo.nop.expand s = .next s.onlyPcAdvanced) ∧
  (∀ (d : Reg) (s : State), execSeq (Pseudo.clr d).expand s = .next (s.withResult d 0)) ∧
  (∀ (d r : Reg) (s : State), execSeq (Pseudo.mov d r).expand s = .next (s.withResult d (val (s.regs.get r)))) ∧
  (∀ (d r : Reg) (s : State),
    execSeq (Pseudo.neg d r).expand s = .next (s.withResult d ((65536 - val (s.regs.get r)) % 65536))) ∧
  (∀ (d : Reg) (k : Nat) (s : State), k < 16 →
    (Pseudo.li d k).expand.length = 2 ∧
    execSeq (Pseudo.li d k).expand s = .next { (s.withResult d k) with pc := s.pc + 2 })

/-! ## Data-transfer family -/

/-- Rules R126 and R127: LOAD copies the cell at its address, EMPTY included, and its words match 0xA800. -/
def Obligations.LoadRule : Prop :=
  DtEncoding .load 0xA800#16 ∧
  (∀ (r : Reg) (a : Nat) (x : Spare) (s : State), a < 16 →
    exec (.load r a x) s = .next { s with regs := s.regs.set r (s.mem.read a), pc := s.pc + 1 }) ∧
  (∀ (r : Reg) (a : Nat) (x : Spare) (s : State), a < 16 → s.mem.read a = .empty →
    ∃ t, exec (.load r a x) s = .next t ∧ t.regs.get r = .empty ∧ val (t.regs.get r) = 0)

/-- Rule R128: STORE copies the register's cell, valid bit included, to its address and to no other, and its words
match 0xB000. -/
def Obligations.StoreRule : Prop :=
  DtEncoding .store 0xB000#16 ∧
  (∀ (r : Reg) (a : Nat) (x : Spare) (s : State), a < 16 →
    ∃ m : Memory, exec (.store r a x) s = .next { s with mem := m, pc := s.pc + 1 } ∧
      m.read a = s.regs.get r ∧ ∀ k : Nat, k ≠ a → m.read k = s.mem.read k)

/-- Rule R129: a STORE of an EMPTY register empties the cell, and the core halts with EMPTY_CELL when it comes to
fetch there. -/
def Obligations.StoreEmptyHaltsLater : Prop :=
  ∀ (r : Reg) (a : Nat) (x : Spare) (s t u : State), a < 16 → s.regs.get r = .empty →
    exec (.store r a x) s = .next t →
    t.mem.read a = .empty ∧
    (u.mem.read a = t.mem.read a → u.pc.toNat = a → u.run = .running →
      ∃ v, step u = .next v ∧ v.run = .halted ∧ statusHaltReason v.status = HaltReason.emptyCell.code)

/-- Rule R130: NOPD0 to NOPD4 and NOPD7 to NOPD15 advance the pc and change nothing else, for every field value, and
their words are `0x8000 | (n << 11)` under the mask. -/
def Obligations.DtNoopRule : Prop :=
  (∀ (r : Reg) (a : Nat) (x : Spare) (s : State), ∀ i ∈ dtNoops r a x, exec i s = .next s.onlyPcAdvanced) ∧
  DtEncoding .nopd0 0x8000#16 ∧ DtEncoding .nopd1 0x8800#16 ∧ DtEncoding .nopd2 0x9000#16 ∧
  DtEncoding .nopd3 0x9800#16 ∧ DtEncoding .nopd4 0xA000#16 ∧ DtEncoding .nopd7 0xB800#16 ∧
  DtEncoding .nopd8 0xC000#16 ∧ DtEncoding .nopd9 0xC800#16 ∧ DtEncoding .nopd10 0xD000#16 ∧
  DtEncoding .nopd11 0xD800#16 ∧ DtEncoding .nopd12 0xE000#16 ∧ DtEncoding .nopd13 0xE800#16 ∧
  DtEncoding .nopd14 0xF000#16 ∧ DtEncoding .nopd15 0xF800#16

/-- The frames of LOAD and STORE. LOAD: every register but its own, and every memory cell, are as before. STORE, whose
one stored cell is at its operand's address: every other cell, and every register, are as before. Neither changes the
sequencer state, STATUS or the host interface's bit. -/
def Obligations.LoadStoreFrame : Prop :=
  (∀ (r : Reg) (a : Nat) (x : Spare) (s t : State), exec (.load r a x) s = .next t →
    (∀ q : Reg, q ≠ r → t.regs.get q = s.regs.get q) ∧ (∀ k : Nat, t.mem.read k = s.mem.read k) ∧
    t.run = s.run ∧ t.status = s.status ∧ t.programLoaded = s.programLoaded) ∧
  (∀ (r : Reg) (a : Nat) (x : Spare) (s t : State), exec (.store r a x) s = .next t →
    (∀ k : Nat, k ≠ a → t.mem.read k = s.mem.read k) ∧ (∀ q : Reg, t.regs.get q = s.regs.get q) ∧
    t.run = s.run ∧ t.status = s.status ∧ t.programLoaded = s.programLoaded)

/-- Rule R131: no word of the data-transfer family faults, whatever its fields and whatever memory and registers hold:
it completes, and the sequencer state and STATUS stay. -/
def Obligations.DataTransferNeverFaults : Prop :=
  ∀ (w : Word) (s : State), w.getLsbD 15 = true →
    ∃ t, exec (decode w) s = .next t ∧ t.run = s.run ∧ t.status = s.status ∧ t.pc = s.pc + 1

/-- The source's load/store round trip (95_test_vectors.md S5): a STORE to an address and then a LOAD from it, in any
registers, copy the register's cell, EMPTY included. -/
def Obligations.LoadAfterStore : Prop :=
  ∀ (r q : Reg) (a : Nat) (x y : Spare) (s : State), a < 16 →
    ∃ t u, exec (.store r a x) s = .next t ∧ exec (.load q a y) t = .next u ∧ u.regs.get q = s.regs.get r

/-- Rule R87: the ignored fields. A data-transfer word behaves the same for every i and operand3, and an ALU no-op for
every operand1. -/
def Obligations.IgnoredFieldsDoNotMatter : Prop :=
  (∀ (v w : Word) (s : State), v.getLsbD 15 = true → v.extractLsb' 11 5 = w.extractLsb' 11 5 →
    v.extractLsb' 3 7 = w.extractLsb' 3 7 → exec (decode v) s = exec (decode w) s) ∧
  (∀ (v w : Word) (s : State), v.getLsbD 15 = false → 5 ≤ (v.extractLsb' 11 4).toNat →
    v.extractLsb' 10 6 = w.extractLsb' 10 6 → v.extractLsb' 0 7 = w.extractLsb' 0 7 →
    exec (decode v) s = exec (decode w) s)

/-! ## The step -/

/-- Rule R150: while RUNNING, where the cell at the pc holds a word, the step is that word's instruction, a well-formed
one, run on the state; nothing is added around it. -/
def Obligations.StepRunsDecodedInstruction : Prop :=
  ∀ (s : State) (w : Word), s.run = .running → s.pc.toNat < 40 → s.mem.read s.pc.toNat = .word w →
    (decode w).wellFormed = true ∧ step s = exec (decode w) s

/-- Rule R142. -/
def Obligations.EmptyCellHalt : Prop :=
  ∀ s : State, s.run = .running → s.pc.toNat < 40 → s.mem.read s.pc.toNat = .empty →
    ∃ w : BitVec 16, step s = .next { s with run := .halted, status := w } ∧
      statusRun w = 0b10#2 ∧ statusHaltReason w = 0b01#2 ∧
      statusBadIdx w = statusBadIdx s.status ∧ statusReserved w = statusReserved s.status

/-- Rule R143: and no memory cell is read, so the memory does not matter. -/
def Obligations.BoundHalt : Prop :=
  ∀ s : State, s.run = .running → 40 ≤ s.pc.toNat →
    ∃ w : BitVec 16, (∀ m : Memory, step { s with mem := m } = .next { s with mem := m, run := .halted, status := w }) ∧
      statusRun w = 0b10#2 ∧ statusHaltReason w = 0b10#2 ∧
      statusBadIdx w = statusBadIdx s.status ∧ statusReserved w = statusReserved s.status

/-- Rule R170, on the step: a fetched word halts the core exactly when t = 0, i = 0 and operand2 is 8 to 15, whatever its
opcode. Then STATUS records the operand2, the pc stays at the word, nothing is written (rule R171), and the host can
read the word at the pc. Every other word completes. -/
def Obligations.RegisterIndexFaultExactly : Prop :=
  ∀ (s : State) (w : Word) (hpc : s.pc.toNat < 40), s.run = .running → s.mem.read s.pc.toNat = .word w →
    (faultingWord w → step s = .next (s.faultedWith (w.extractLsb' 3 4)) ∧
      command (.readMemory ⟨s.pc.toNat, hpc⟩) (s.faultedWith (w.extractLsb' 3 4)) =
        (.cell (.word w), s.faultedWith (w.extractLsb' 3 4))) ∧
    (¬ faultingWord w → ∃ t, step s = .next t ∧ t.run = .running ∧ t.status = s.status ∧ t.pc = s.pc + 1)

/-- Rules R140 and R150: a RUNNING core always has a next state, whatever its memory and registers hold; in LOAD and in
HALTED it has none. -/
def Obligations.StepExistsExactlyWhileRunning : Prop :=
  ∀ s : State, (∃ t, step s = .next t) ↔ s.run = .running

/-- The model's choice for a step that does not exist (DESIGN CHOICE, notes/assumptions/2.md): it answers a fault that
names the state. -/
def Obligations.NoStepIsNamed : Prop :=
  ∀ s : State, (s.run = .load → step s = .fault .notStarted) ∧ (s.run = .halted → step s = .fault .coreHalted)

/-- Rules R44, R145 and R146: a step either completes an instruction and moves the pc to the next address, or halts
with the pc where it was. -/
def Obligations.PcOnlyAdvances : Prop :=
  ∀ s t : State, step s = .next t →
    (t.run = .running ∧ t.pc = s.pc + 1 ∧ t.status = s.status) ∨ (t.run = .halted ∧ t.pc = s.pc)

/-- Rules R34 and R189: the writers of the registers. A step changes a register only where the fetched word is a defined
ALU instruction or a LOAD whose operand1 names it, and no request of the host but reset changes one. -/
def Obligations.RegistersWrittenOnlyByAluLoadAndReset : Prop :=
  (∀ (s t : State) (r : Reg), step s = .next t → t.regs.get r ≠ s.regs.get r →
    ∃ w : Word, s.mem.read s.pc.toNat = .word w ∧
      ((∃ a b, decode w ∈ aluDefined r a b) ∨ ∃ a x, decode w = .load r a x)) ∧
  (∀ (q : Request) (s : State), q ≠ .plain .reset → (request q s).2.regs = s.regs)

/-- Rules R56 and R69: no run changes a cell from 16 up, so code there is fixed. Like every claim about a run, it rests
on the host making no move in it (decision D7, I10, notes/assumptions/10.md). -/
def Obligations.CellsFrom16AreFixed : Prop :=
  ∀ (n : Nat) (s : State) (a : Nat), 16 ≤ a → (runFor n s).mem.read a = s.mem.read a

/-- Rule R68: a STORE is seen by every later fetch of the cell, with no delay: while the cell still holds what was
stored, a fetch there runs the stored word, or halts with EMPTY_CELL on a stored EMPTY. -/
def Obligations.StoreSeenByFetch : Prop :=
  ∀ (r : Reg) (a : Nat) (x : Spare) (s t u : State), exec (.store r a x) s = .next t →
    u.run = .running → u.pc.toNat = a → u.mem.read a = t.mem.read a →
    (∀ w : Word, s.regs.get r = .word w → step u = exec (decode w) u) ∧
    (s.regs.get r = .empty → step u = .next (u.halt .emptyCell))

/-- Rule R149: HALTED is terminal. No step exists, no number of steps changes anything, and every request but reset
leaves the state as it is; reset leaves HALTED. -/
def Obligations.HaltedIsTerminal : Prop :=
  ∀ s : State, s.run = .halted →
    (∀ t, step s ≠ .next t) ∧ (∀ n, runFor n s = s) ∧
    (∀ r : Request, r ≠ .plain .reset → (request r s).2 = s) ∧
    (request (.plain .reset) s).2 = State.reset

/-! ## Runs -/

/-- Rule R152: a run from start is some number n, at most 40, of completed instructions, the pc rising by 1 each, and
then one halting step. Like every claim about a run, it rests on the host making no move in it (decision D7, I10,
notes/assumptions/10.md). -/
def Obligations.EveryRunEnds : Prop :=
  ∀ s : State, s.run = .running → s.pc = 0 →
    ∃ n, n ≤ 40 ∧ (∀ k, k ≤ n → (runFor k s).run = .running ∧ (runFor k s).pc.toNat = k) ∧
      (runFor (n + 1) s).run = .halted ∧ (runFor (n + 1) s).pc.toNat = n

/-- Rule R153: with every cell EMPTY at start, the first step halts with EMPTY_CELL, the pc is 0 and every register
holds its reset value. -/
def Obligations.EmptyMemoryHaltsAtOnce : Prop :=
  ∀ s : State, Reachable s → s.run = .load → (∀ a, a < 40 → s.mem.read a = .empty) →
    ∃ t, step (command .start s).2 = .next t ∧ t.run = .halted ∧
      statusHaltReason t.status = HaltReason.emptyCell.code ∧ t.pc = 0 ∧ ∀ r : Reg, t.regs.get r = .word 0

/-- Rule R154: where the pc meets no EMPTY cell and no faulting word, the core executes cells 0 to 39 in order, and
the step after cell 39 halts with BOUND at pc = 40. Like every claim about a run, it rests on the host making no move
in it (decision D7, I10, notes/assumptions/10.md). -/
def Obligations.FullMemoryHaltsAtBound : Prop :=
  ∀ s : State, s.run = .running → s.pc = 0 →
    (∀ k, k < 40 → ∃ w, (runFor k s).mem.read k = .word w ∧ ¬ faultingWord w) →
    (∀ k, k ≤ 40 → (runFor k s).run = .running ∧ (runFor k s).pc.toNat = k) ∧
    (runFor 41 s).run = .halted ∧ statusHaltReason (runFor 41 s).status = HaltReason.bound.code ∧
    (runFor 41 s).pc.toNat = 40

/-- Rule R151: a run from start is a function of the memory contents at start. Two reachable LOAD states with the same
memory run alike after start, step for step, in all of rule R30's state. Like every claim about a run, it rests on the
host making no move in it (decision D7, I10, notes/assumptions/10.md). -/
def Obligations.RunIsFunctionOfMemory : Prop :=
  ∀ s t : State, Reachable s → Reachable t → s.run = .load → t.run = .load → s.mem = t.mem →
    ∀ n, (runFor n (command .start s).2).sameCore (runFor n (command .start t).2)

/-! ## Invariants -/

/-- The invariant holds right after reset (rule R185). -/
def Obligations.InvariantAtReset : Prop :=
  State.reset.Inv

/-- Every step keeps the invariant: the memory's canonical form and bounds (rule R40), the pc in 0 to 40 (rules R43,
R147), STATUS's mirror of the sequencer state, its reserved bits, HALT_REASON and BADIDX (rules R45, R165), and where
a halted core stopped (rules R142, R143, R170). -/
def Obligations.StepKeepsInvariant : Prop :=
  ∀ s t : State, s.Inv → step s = .next t → t.Inv

/-- Every request of the host keeps the invariant, refused ones included (rules R185 to R195). -/
def Obligations.RequestKeepsInvariant : Prop :=
  ∀ (r : Request) (s : State), s.Inv → (request r s).2.Inv

/-- Every reachable state meets the invariant. -/
def Obligations.ReachableStatesAreSound : Prop :=
  ∀ s : State, Reachable s → s.Inv

/-- Rule R165: every reachable halted state has one of the three reasons, and ended either normally or in the
fault. -/
def Obligations.ThreeWaysToHalt : Prop :=
  ∀ s : State, Reachable s → s.run = .halted →
    (s.endedNormally ∨ s.endedInFault) ∧ ¬ (s.endedNormally ∧ s.endedInFault)

/-- The STATUS words of a run that ends, from the STATUS that start leaves (rule R45; 95_test_vectors.md E10 to E13):
0x0006, 0x000A, and 0x000E with BADIDX in bits 7:4. -/
def Obligations.StatusWordsAfterHalt : Prop :=
  (State.reset.start).status = 0x0001#16 ∧
  ∀ s : State, s.status = 0x0001#16 →
    (s.halt .emptyCell).status = 0x0006#16 ∧ (s.halt .bound).status = 0x000A#16 ∧
    ∀ k : BitVec 4, (s.raiseRegisterIndexFault k).status = BitVec.ofNat 16 (0x000E + 16 * k.toNat)

/-! ## Reset and the host interface -/

/-- Rule R185: the value of every piece of state after reset. -/
def Obligations.ResetState : Prop :=
  (∀ r : Reg, State.reset.regs.get r = .word 0) ∧ (∀ a : Nat, State.reset.mem.read a = .empty) ∧
  State.reset.pc = 0 ∧ State.reset.run = .load ∧ State.reset.status = 0x0000#16

/-- Rule R186: reset is carried out in every state, and gives the state of rule R185; no step and no other command
leads out of HALTED. -/
def Obligations.ResetInAnyState : Prop :=
  (∀ s : State, command .reset s = (.done, State.reset)) ∧
  (∀ (s : State) (c : Command), s.run = .halted → c ≠ .reset →
    (command c s).2.run = .halted ∧ ∀ t, step s ≠ .next t)

/-- Rule R190: start in LOAD sets the pc to 0, the sequencer to RUNNING and STATUS.RUN to 01, and changes nothing else;
in a reachable state every register holds WORD(0) then. -/
def Obligations.StartRule : Prop :=
  (∀ s : State, s.run = .load →
    ∃ w : BitVec 16, command .start s = (.done, { s with pc := 0, run := .running, status := w }) ∧
      statusRun w = 0b01#2 ∧ statusHaltReason w = statusHaltReason s.status ∧
      statusBadIdx w = statusBadIdx s.status ∧ statusReserved w = statusReserved s.status) ∧
  (∀ s : State, Reachable s → s.run = .load → ∀ r : Reg, (command .start s).2.regs.get r = .word 0)

/-- Rule R188 with the states of rule R187: a command that the state does not admit is refused, changes nothing, and
the host is told. -/
def Obligations.CommandsNotAdmittedAreRefused : Prop :=
  (∀ (c : Command) (s : State), s.run = .running → c ≠ .reset → c ≠ .readStatus →
    command c s = (.refused .notAdmitted, s)) ∧
  (∀ (s : State) (ws : List Word) (ps : List (Nat × Word)), s.run = .halted →
    command (.loadProgram ws) s = (.refused .notAdmitted, s) ∧
    command (.loadData ps) s = (.refused .notAdmitted, s) ∧
    command .start s = (.refused .notAdmitted, s)) ∧
  (∀ (s : State) (a : Fin 40), s.run = .load →
    command .readResults s = (.refused .notAdmitted, s) ∧
    command (.readMemory a) s = (.refused .notAdmitted, s) ∧
    command .readPc s = (.refused .notAdmitted, s))

/-- The model's reading of "after load_program" in rule R187 (DEDUCED, notes/assumptions/3.md): reset leaves the bit
cleared, so load_data is refused right after reset; in LOAD, load_data is refused until a load_program has been carried
out, and load_program is what lets it through. -/
def Obligations.LoadDataWaitsForLoadProgram : Prop :=
  State.reset.programLoaded = false ∧
  (∀ ps : List (Nat × Word), command (.loadData ps) State.reset = (.refused .notAdmitted, State.reset)) ∧
  ∀ (s : State) (ws : List Word) (ps : List (Nat × Word)), s.run = .load →
    (s.programLoaded = false → command (.loadData ps) s = (.refused .notAdmitted, s)) ∧
    ((∀ p ∈ ps, p.1 < 16) → (command (.loadData ps) (command (.loadProgram ws) s).2).1 = .done)

/-- Rules R192 and R193: the program loader writes the first 40 words from address 0 up and nothing else; the model's
own bit of the host interface (notes/assumptions/3.md) is left open here. -/
def Obligations.ProgramLoaderRule : Prop :=
  ∀ (s : State) (ws : List Word), s.run = .load →
    ∃ (m : Memory) (b : Bool), command (.loadProgram ws) s = (.done, { s with mem := m, programLoaded := b }) ∧
      (∀ (k : Nat) (h : k < ws.length), k < 40 → m.read k = .word ws[k]) ∧
      (∀ k : Nat, min ws.length 40 ≤ k → m.read k = s.mem.read k)

/-- Rule R195: the data loader writes each pair in order over whatever was there, so that each address holds the word
of its last pair, and nothing else changes; it never fills a cell from 16 up. -/
def Obligations.DataLoaderRule : Prop :=
  (∀ (s : State) (ps : List (Nat × Word)), s.run = .load → s.programLoaded = true → (∀ p ∈ ps, p.1 < 16) →
    ∃ m : Memory, command (.loadData ps) s = (.done, { s with mem := m }) ∧
      (∀ (qs rs : List (Nat × Word)) (p : Nat × Word), ps = qs ++ p :: rs → (∀ q ∈ rs, q.1 ≠ p.1) →
        m.read p.1 = .word p.2) ∧
      (∀ k : Nat, (∀ p ∈ ps, p.1 ≠ k) → m.read k = s.mem.read k)) ∧
  (∀ (s : State) (ps : List (Nat × Word)) (k : Nat), 16 ≤ k →
    (command (.loadData ps) s).2.mem.read k = s.mem.read k)

/-- Rule R194: an address above 39 makes the data loader refuse the whole command. Also refused is an address of 16 to
39, which the spec says cannot arise (DESIGN CHOICE, notes/assumptions/6.md). -/
def Obligations.DataAddressOutOfRangeRefused : Prop :=
  ∀ (s : State) (ps : List (Nat × Word)) (p : Nat × Word), s.run = .load → s.programLoaded = true → p ∈ ps →
    16 ≤ p.1 → command (.loadData ps) s = (.refused .addressOutOfRange, s)

/-- Rule R196: a string of the wrong length, or with a character other than '0' and '1', makes the whole command that
carries it refused as malformed: nothing is written and the core stays in LOAD. That this holds of a string beyond the
40th of load_program too, whose word rule R193 would ignore, is the model's choice (DESIGN CHOICE,
notes/assumptions/18.md). -/
def Obligations.MalformedStringsRefused : Prop :=
  (∀ (s : State) (lines : List (List Char)), s.run = .load → (∃ cs ∈ lines, malformed 16 cs) →
    request (.loadProgram lines) s = (.refused .malformedWord, s)) ∧
  (∀ (s : State) (pairs : List (List Char × List Char)), s.run = .load → s.programLoaded = true →
    (∃ p ∈ pairs, malformed 4 p.1 ∨ malformed 16 p.2) →
    request (.loadData pairs) s = (.refused .malformedWord, s))

/-- Rule R18 with rule R10, and the source's round trip (95_test_vectors.md S1): the text form of a word has 16
characters, '1' at position p exactly when bit 15 - p is 1 and '0' otherwise, and reads back as the word. The same of
the 4 digits of a data address, the most significant first, read as an unsigned number (rules R16, R194). -/
def Obligations.TextFormRule : Prop :=
  (∀ w : Word, (textForm w).length = 16 ∧
    (∀ p : Nat, p < 16 → (textForm w)[p]? = some (if w.getLsbD (15 - p) then '1' else '0')) ∧
    wordOfText (textForm w) = some w) ∧
  (∀ a : BitVec 4, (addressText a).length = 4 ∧
    (∀ p : Nat, p < 4 → (addressText a)[p]? = some (if a.getLsbD (3 - p) then '1' else '0')) ∧
    addressOfText (addressText a) = some a.toNat)

/-- Rule R196's other side: well-formed strings are accepted, with the values of rules R18 and R194. A program given as
the text forms of its words is loaded as those words, and data given as 4-digit addresses with text forms of words is
loaded as those pairs, in their order. -/
def Obligations.TextProgramLoads : Prop :=
  (∀ (s : State) (ws : List Word),
    request (.loadProgram (ws.map textForm)) s = command (.loadProgram ws) s) ∧
  (∀ (s : State) (ps : List (BitVec 4 × Word)),
    request (.loadData (ps.map fun p => (addressText p.1, textForm p.2))) s =
      command (.loadData (ps.map fun p => (p.1.toNat, p.2))) s)

/-- Rules R15 and R17: the codec's round trip, its two wrap laws, and the word of any result, negative ones
included. -/
def Obligations.CodecLaws : Prop :=
  (∀ v : Nat, v < 65536 → val (enc v) = v) ∧ enc 65536 = enc 0 ∧ enc 65537 = enc 1 ∧
  (∀ v : Int, enc v ≠ .empty ∧ (val (enc v) : Int) = v % 65536)

/-- Rule R200, and read_status of rule R187: what the host reads, with no change of state. -/
def Obligations.ReadoutRule : Prop :=
  (∀ s : State, command .readStatus s = (.status s.status, s)) ∧
  (∀ s : State, s.run = .halted →
    command .readResults s = (.results [val s.regs.r0, val s.regs.r1, val s.regs.r2, val s.regs.r3, val s.regs.r4,
      val s.regs.r5, val s.regs.r6, val s.regs.r7], s) ∧
    (∀ a : Fin 40, command (.readMemory a) s = (.cell (s.mem.read a), s)) ∧
    command .readPc s = (.pc s.pc, s))

/-! ## The blocks -/

/-- The seven blocks, wired by their ports (rules R37, R111, R134, R155), do in one cycle without start and reset what
the step of rule R150 does, and nothing where no step exists. It rests on the model's wiring where the rules leave a
port open (DESIGN CHOICE, notes/assumptions/9.md: the fault gated with t = 0, `fetch_empty` not raised at the bound and
the rest of that list), and holds for every value of the free values on the ports. -/
def Obligations.BlocksRefineStep : Prop :=
  ∀ s : State, (∀ t, step s = .next t → blockCycle false false s = t) ∧
    (s.run ≠ .running → blockCycle false false s = s)

/-- The start and reset signals of the control_sequencer do what the commands do (rules R155, R186, R188, R190), and
start in a RUNNING or a HALTED core does nothing. That reset wins over start in one cycle is said by no rule: it is the
model's choice (DESIGN CHOICE, notes/assumptions/9.md). -/
def Obligations.BlocksStartAndReset : Prop :=
  ∀ s : State, (s.run = .load → blockCycle true false s = (command .start s).2) ∧
    (s.run ≠ .load → blockCycle true false s = blockCycle false false s) ∧ (∀ b, blockCycle b true s = State.reset)
end

