-- ==== Sys2Proof/Laws/Blocks.lean ====
section
/-! SUPPORT. The laws of the 17-bit cell ports: what comes out of one is the cell that went in, whatever the data bits of
EMPTY. -/

namespace Sys2Proof.Laws

open Sys2Proof.Machine

variable (free w : Word) (c : Cell)

@[simp] theorem valid_cellBits : CellBits.valid (cellBits free c) = !c.isEmpty := by
  cases c with
  | empty => exact BitVec.getLsbD_append
  | word w => exact BitVec.getLsbD_append

@[simp] theorem data_ones_append : CellBits.data (1#1 ++ w) = w := by
  apply BitVec.eq_of_getLsbD_eq
  intro i hi
  simp [CellBits.data, BitVec.getLsbD_append, hi]

@[simp] theorem data_cellBits_word : CellBits.data (cellBits free (.word w)) = w :=
  data_ones_append w

/-- A cell read from a port is the cell put on it, EMPTY included (rules R37, R60). -/
@[simp] theorem cell_cellBits : CellBits.cell (cellBits free c) = c := by
  unfold CellBits.cell
  rw [valid_cellBits]
  cases c with
  | empty => rfl
  | word w => exact congrArg Cell.word (data_cellBits_word free w)

@[simp] theorem cell_result : CellBits.cell (1#1 ++ w) = .word w :=
  cell_cellBits w (.word w)

/-- The ALU reads a port as its data bits, and as 0 for EMPTY, whatever its data bits (rule R16). -/
theorem value_cellBits_empty : CellBits.value (cellBits free .empty) = 0 := by
  unfold CellBits.value
  rw [valid_cellBits]
  rfl

theorem value_cellBits_word : CellBits.value (cellBits free (.word w)) = w := by
  unfold CellBits.value
  rw [valid_cellBits, data_cellBits_word]
  rfl

/-- The port's value as a number is the cell's value (rule R16). -/
theorem value_cellBits_toNat : (CellBits.value (cellBits free c)).toNat = val c := by
  cases c with
  | empty => rw [value_cellBits_empty]; rfl
  | word w => rw [value_cellBits_word]; rfl

end Sys2Proof.Laws
end

