-- ==== Sys2Proof/Laws/Codec.lean ====
section
/-! SUPPORT. The laws of the word codec (rules R15 to R17): a result's cell as 16-bit arithmetic. -/

namespace Sys2Proof.Laws

open Sys2Proof.Machine

@[simp] theorem val_empty : val .empty = 0 := rfl
@[simp] theorem val_word (w : Word) : val (.word w) = w.toNat := rfl

/-- A word's number of values, as a numeral. -/
theorem two_pow_w : 2 ^ Config.w = 65536 := rfl

theorem val_lt (c : Cell) : val c < 65536 := by
  cases c with
  | empty => decide
  | word w => exact w.isLt

/-- The cell of a result that fits is that word (rule R17). -/
theorem enc_natCast (n : Nat) : enc (n : Int) = .word (BitVec.ofNat 16 n) :=
  congrArg Cell.word (BitVec.ofInt_natCast 16 n)

/-- A sum's cell is the 16-bit sum (rules R102, R103). -/
theorem enc_add (x y : Word) : enc ((x.toNat : Int) + (y.toNat : Int)) = .word (x + y) := by
  rw [← Int.natCast_add, enc_natCast, BitVec.ofNat_add]
  simp

theorem ofInt_sub_toNat (x y : BitVec 16) : BitVec.ofInt 16 ((x.toNat : Int) - (y.toNat : Int)) = x - y := by
  apply BitVec.eq_of_toNat_eq
  rw [BitVec.toNat_ofInt, BitVec.toNat_sub]
  omega

/-- A difference's cell is the 16-bit difference, negative ones included (rules R104, R105). -/
theorem enc_sub (x y : Word) : enc ((x.toNat : Int) - (y.toNat : Int)) = .word (x - y) :=
  congrArg Cell.word (ofInt_sub_toNat x y)

theorem digitValue_lt {c : Char} {d : Nat} (h : digitValue c = some d) : d < 2 := by
  unfold digitValue at h
  split at h
  · cases h; decide
  split at h
  · cases h; decide
  · cases h

/-- A string of `n` digits read after `acc` has a value below `(acc + 1) * 2^n`. -/
theorem digitsValue_lt {cs : List Char} {acc v : Nat} (h : digitsValue acc cs = some v) :
    v < (acc + 1) * 2 ^ cs.length := by
  induction cs generalizing acc with
  | nil =>
    cases h
    simp
  | cons c cs ih =>
    rw [digitsValue] at h
    cases hd : digitValue c with
    | none =>
      rw [hd] at h
      cases h
    | some d =>
      rw [hd] at h
      have hlt := digitValue_lt hd
      refine (ih h).trans_le ?_
      rw [List.length_cons, pow_succ, mul_comm (2 ^ cs.length) 2, ← mul_assoc]
      exact Nat.mul_le_mul_right _ (by omega)

/-- A 4-digit address is at most 15 (rule R194). -/
theorem addressOfText_lt {cs : List Char} {a : Nat} (h : addressOfText cs = some a) : a < 16 := by
  unfold addressOfText fieldOfText at h
  split at h
  · next hlen =>
    have := digitsValue_lt h
    rw [hlen] at this
    omega
  · cases h

end Sys2Proof.Laws
end

