-- ==== Sys2Proof/Laws/Decode.lean ====
section
/-! SUPPORT. The laws of the decoder's parts: the fields of a packed word, the register numbers, and what the decoder
makes of the two encoding formulas. -/

namespace Sys2Proof.Laws

@[simp] theorem reg_ofIndex_index (r : Reg) : Reg.ofIndex r.index = some r := by
  cases r <;> rfl

theorem reg_index_lt (r : Reg) : r.index < 8 := by
  cases r <;> decide

theorem nreg_eq : Config.nreg = 8 := rfl

theorem reg_ofIndex_eq_none_iff (n : Nat) : Reg.ofIndex n = none ↔ 8 ≤ n := by
  unfold Reg.ofIndex
  rw [nreg_eq]
  split
  · next h => exact iff_of_false (Option.some_ne_none _) (Nat.not_le.2 h)
  · next h => exact iff_of_true rfl (Nat.le_of_not_lt h)

theorem reg_ofIndex_eq_some_iff (n : Nat) (r : Reg) : Reg.ofIndex n = some r ↔ n = r.index := by
  constructor
  · intro h
    have hlt : n < 8 := by
      by_contra hn
      rw [(reg_ofIndex_eq_none_iff n).2 (Nat.le_of_not_lt hn)] at h
      cases h
    interval_cases n <;> (cases h; rfl)
  · rintro rfl
    exact reg_ofIndex_index r

theorem reg_index_injective {r r' : Reg} (h : r.index = r'.index) : r = r' := by
  have := reg_ofIndex_index r
  rw [h, reg_ofIndex_index] at this
  exact (Option.some.inj this).symm

@[simp] theorem reg_ofBits_toBits (r : Reg) : Reg.ofBits r.toBits = r := by
  cases r <;> rfl

@[simp] theorem reg_toBits_ofBits (x : BitVec 3) : (Reg.ofBits x).toBits = x := by
  revert x
  decide

theorem reg_index_ofBits (x : BitVec 3) : (Reg.ofBits x).index = x.toNat := by
  revert x
  decide

/-- Bit `k` of a packed word, field by field. -/
theorem getLsbD_pack (code : BitVec 5) (i : Bool) (o1 : BitVec 3) (o2 : BitVec 4) (o3 : BitVec 3) (k : Nat) :
    (pack code i o1 o2 o3).getLsbD k =
      if k < 3 then o3.getLsbD k else if k < 7 then o2.getLsbD (k - 3) else if k < 10 then o1.getLsbD (k - 7)
      else if k < 11 then i else code.getLsbD (k - 11) := by
  unfold pack
  simp only [BitVec.getLsbD_append, BitVec.getLsbD_ofBool]
  have e1 : k - 3 - 4 = k - 7 := by omega
  have e2 : k - 7 - 3 = k - 10 := by omega
  have e3 : k - 10 - 1 = k - 11 := by omega
  rw [e1, e2, e3]
  by_cases h3 : k < 3
  · simp [h3]
  by_cases h7 : k < 7
  · simp [h3, h7, show k - 3 < 4 by omega]
  by_cases h10 : k < 10
  · simp [h3, h7, h10, show ¬ k - 3 < 4 by omega, show k - 7 < 3 by omega]
  by_cases h11 : k < 11
  · simp [h3, h7, h10, h11, show ¬ k - 3 < 4 by omega, show ¬ k - 7 < 3 by omega, show k - 10 = 0 by omega]
  · simp [h3, h7, h10, h11, show ¬ k - 3 < 4 by omega, show ¬ k - 7 < 3 by omega, show ¬ k - 10 = 0 by omega]

/-- The fields of a packed word are the fields packed. -/
theorem fieldsOf_pack (code : BitVec 5) (i : Bool) (o1 : BitVec 3) (o2 : BitVec 4) (o3 : BitVec 3) :
    fieldsOf (pack code i o1 o2 o3) = ⟨code.getLsbD 4, code.extractLsb' 0 4, i, o1, o2, o3⟩ := by
  unfold fieldsOf
  congr 1
  · exact (getLsbD_pack code i o1 o2 o3 15).trans (by simp)
  · ext k hk
    rw [BitVec.getElem_extractLsb', BitVec.getElem_extractLsb', getLsbD_pack, if_neg (by omega), if_neg (by omega),
      if_neg (by omega), if_neg (by omega)]
    congr 1
    omega
  · exact (getLsbD_pack code i o1 o2 o3 10).trans (by simp)
  · ext k hk
    rw [BitVec.getElem_extractLsb', getLsbD_pack, if_neg (by omega), if_neg (by omega), if_pos (by omega),
      ← BitVec.getLsbD_eq_getElem]
    congr 1
    omega
  · ext k hk
    rw [BitVec.getElem_extractLsb', getLsbD_pack, if_neg (by omega), if_pos (by omega), ← BitVec.getLsbD_eq_getElem]
    congr 1
    omega
  · ext k hk
    rw [BitVec.getElem_extractLsb', getLsbD_pack, if_pos (by omega), ← BitVec.getLsbD_eq_getElem]
    congr 1
    omega

theorem toNat_ofNat4 {n : Nat} (h : n < 16) : (BitVec.ofNat 4 n).toNat = n := by
  rw [BitVec.toNat_ofNat]
  exact Nat.mod_eq_of_lt h

/-- The ALU formula of rule R84, decoded: the row of the opcode in bits 14:11. -/
theorem decode_encodeAlu (code : BitVec 5) (ht : code.getLsbD 4 = false) (d : Reg) (a : SourceA) (b : Reg)
    (h : a.wellFormed = true) : decode (encodeAlu code d a b) = decodeAlu (code.extractLsb' 0 4) d a b := by
  unfold decode encodeAlu
  rw [fieldsOf_pack]
  simp only [ht, Bool.false_eq_true, if_false, reg_ofBits_toBits]
  cases a with
  | reg n =>
    have hn : n < 16 := of_decide_eq_true h
    simp only [Fields.sourceA, SourceA.immediate, SourceA.field, Bool.false_eq_true, if_false, toNat_ofNat4 hn]
  | imm n =>
    have hn : n < 16 := of_decide_eq_true h
    simp only [Fields.sourceA, SourceA.immediate, SourceA.field, if_true, toNat_ofNat4 hn]

/-- The data-transfer formula of rule R84, decoded: the row of the opcode in bits 14:11, with the ignored bits. -/
theorem decode_encodeDt (code : BitVec 5) (ht : code.getLsbD 4 = true) (r : Reg) (a : Nat) (x : Spare)
    (h : addressWellFormed a = true) : decode (encodeDt code r a x) = decodeDt (code.extractLsb' 0 4) r a x := by
  have ha : a < 16 := of_decide_eq_true h
  unfold decode encodeDt
  rw [fieldsOf_pack]
  simp only [ht, if_true, reg_ofBits_toBits, toNat_ofNat4 ha]

end Sys2Proof.Laws
end

