-- ==== Sys2Proof/Laws/Memory.lean ====
section
/-! SUPPORT. The laws of memory: read after write, and that every operation keeps the canonical form. -/

namespace Sys2Proof.Laws

open Sys2Proof.Machine

@[simp] theorem nmem_eq : Config.nmem = 40 := rfl

@[simp] theorem read_nil (a : Nat) : Memory.read [] a = .empty := rfl

theorem read_clear_same (m : Memory) (a : Nat) : (Memory.clear m a).read a = .empty := by
  induction m with
  | nil => rfl
  | cons e m ih =>
    unfold Memory.clear at ih ⊢
    rw [List.filter_cons]
    split
    · next h =>
      have hne : e.1 ≠ a := by simpa using h
      rw [Memory.read, if_neg hne]
      exact ih
    · exact ih

theorem read_clear_other (m : Memory) {a a' : Nat} (h : a' ≠ a) : (Memory.clear m a).read a' = m.read a' := by
  induction m with
  | nil => rfl
  | cons e m ih =>
    unfold Memory.clear at ih ⊢
    rw [List.filter_cons]
    split
    · rw [Memory.read, Memory.read, ih]
    · next hb =>
      have he : e.1 = a := by simpa using hb
      rw [ih, Memory.read, if_neg (by omega)]

theorem read_insert_same (m : Memory) (a : Nat) (w : Word) (h : m.read a = .empty) :
    (Memory.insert m a w).read a = .word w := by
  induction m with
  | nil => simp [Memory.insert, Memory.read]
  | cons e m ih =>
    rw [Memory.read] at h
    have hne : e.1 ≠ a := by
      intro he
      rw [if_pos he] at h
      cases h
    rw [if_neg hne] at h
    rw [Memory.insert]
    split
    · rw [Memory.read, if_pos rfl]
    · rw [Memory.read, if_neg hne, ih h]

theorem read_insert_other (m : Memory) {a a' : Nat} (w : Word) (h : a' ≠ a) :
    (Memory.insert m a w).read a' = m.read a' := by
  induction m with
  | nil =>
    simp only [Memory.insert, Memory.read, if_neg (Ne.symm h)]
  | cons e m ih =>
    rw [Memory.insert]
    split
    · rw [Memory.read, if_neg (Ne.symm h)]
    · rw [Memory.read, Memory.read, ih]

/-- A read of the cell just written gives the cell written, EMPTY included (rules R60, R65). -/
theorem read_write_same (m : Memory) (a : Nat) (c : Cell) : (m.write a c).read a = c := by
  cases c with
  | empty => exact read_clear_same m a
  | word w => exact read_insert_same _ a w (read_clear_same m a)

/-- A write leaves every other cell alone (rule R65). -/
theorem read_write_other (m : Memory) {a a' : Nat} (c : Cell) (h : a' ≠ a) : (m.write a c).read a' = m.read a' := by
  cases c with
  | empty => exact read_clear_other m h
  | word w => exact (read_insert_other _ w h).trans (read_clear_other m h)

theorem mem_clear {m : Memory} {a : Nat} {e : Nat × Word} (h : e ∈ Memory.clear m a) : e ∈ m ∧ e.1 ≠ a := by
  unfold Memory.clear at h
  simpa using h

theorem mem_insert {m : Memory} {a : Nat} {w : Word} {e : Nat × Word} (h : e ∈ Memory.insert m a w) :
    e = (a, w) ∨ e ∈ m := by
  induction m with
  | nil => simpa [Memory.insert] using h
  | cons f m ih =>
    rw [Memory.insert] at h
    split at h
    · simpa using h
    · rcases List.mem_cons.1 h with h | h
      · exact .inr (h ▸ List.mem_cons_self)
      · rcases ih h with h | h
        · exact .inl h
        · exact .inr (List.mem_cons_of_mem _ h)

theorem clear_wf {m : Memory} (h : m.wf) (a : Nat) : (Memory.clear m a).wf :=
  ⟨h.1.filter _, fun e he => h.2 e (mem_clear he).1⟩

theorem insert_rising {m : Memory} {a : Nat} {w : Word} (h : m.Pairwise fun e f => e.1 < f.1)
    (hne : ∀ e ∈ m, e.1 ≠ a) : (Memory.insert m a w).Pairwise fun e f => e.1 < f.1 := by
  induction m with
  | nil => exact List.pairwise_singleton _ _
  | cons f m ih =>
    have hf := List.pairwise_cons.1 h
    have hfa := hne f List.mem_cons_self
    rw [Memory.insert]
    split
    · next hlt =>
      refine List.pairwise_cons.2 ⟨fun e he => ?_, h⟩
      rcases List.mem_cons.1 he with rfl | he
      · exact hlt
      · exact hlt.trans (hf.1 e he)
    · next hge =>
      refine List.pairwise_cons.2 ⟨fun e he => ?_, ih hf.2 fun e he => hne e (List.mem_cons_of_mem _ he)⟩
      rcases mem_insert he with rfl | he
      · exact lt_of_le_of_ne (Nat.le_of_not_lt hge) hfa
      · exact hf.1 e he

/-- A write to a cell that exists keeps the canonical form. -/
theorem write_wf {m : Memory} (h : m.wf) {a : Nat} (ha : a < 40) (c : Cell) : (m.write a c).wf := by
  cases c with
  | empty => exact clear_wf h a
  | word w =>
    refine ⟨insert_rising (clear_wf h a).1 fun e he => (mem_clear he).2, fun e he => ?_⟩
    rcases mem_insert he with rfl | he
    · exact ha
    · exact (clear_wf h a).2 e he

/-- The program loader keeps the canonical form where the words fit below the bound. -/
theorem writeWords_wf {m : Memory} (h : m.wf) (a : Nat) (ws : List Word) (hfit : a + ws.length ≤ 40) :
    (m.writeWords a ws).wf := by
  induction ws generalizing m a with
  | nil => exact h
  | cons w ws ih =>
    rw [List.length_cons] at hfit
    exact ih (write_wf h (by omega) _) (a + 1) (by omega)

/-- The data loader keeps the canonical form where every address is a cell. -/
theorem writePairs_wf {m : Memory} (h : m.wf) (ps : List (Nat × Word)) (hfit : ∀ p ∈ ps, p.1 < 40) :
    (m.writePairs ps).wf := by
  induction ps generalizing m with
  | nil => exact h
  | cons p ps ih =>
    exact ih (write_wf h (hfit p List.mem_cons_self) _) fun q hq => hfit q (List.mem_cons_of_mem _ hq)

theorem read_writeWords_below (m : Memory) (a : Nat) (ws : List Word) {k : Nat} (hk : k < a) :
    (m.writeWords a ws).read k = m.read k := by
  induction ws generalizing m a with
  | nil => rfl
  | cons w ws ih =>
    rw [Memory.writeWords, ih _ (a + 1) (by omega), read_write_other _ _ (by omega)]

/-- A read below the first entry's address of a canonical list finds EMPTY. -/
theorem read_of_lt {m : Memory} {a : Nat} (h : ∀ e ∈ m, a < e.1) : m.read a = .empty := by
  induction m with
  | nil => rfl
  | cons e m ih =>
    rw [Memory.read, if_neg (Nat.ne_of_gt (h e List.mem_cons_self))]
    exact ih fun f hf => h f (List.mem_cons_of_mem _ hf)

/-- A canonical memory lists no address past the last cell, so there is nothing to read there (rule R63). -/
theorem read_past_end {m : Memory} (h : m.wf) {a : Nat} (ha : 40 ≤ a) : m.read a = .empty := by
  induction m with
  | nil => rfl
  | cons e m ih =>
    have he : e.1 < 40 := h.2 e List.mem_cons_self
    rw [Memory.read, if_neg (by omega)]
    exact ih ⟨(List.pairwise_cons.1 h.1).2, fun f hf => h.2 f (List.mem_cons_of_mem _ hf)⟩

/-- Equal contents are equal lists: canonical memories that read the same at every address are the same. -/
theorem memory_ext {m n : Memory} (hm : m.Pairwise fun e f => e.1 < f.1) (hn : n.Pairwise fun e f => e.1 < f.1)
    (h : ∀ a, m.read a = n.read a) : m = n := by
  induction m generalizing n with
  | nil =>
    cases n with
    | nil => rfl
    | cons f n =>
      have := h f.1
      rw [read_nil, Memory.read, if_pos rfl] at this
      cases this
  | cons e m ih =>
    cases n with
    | nil =>
      have := h e.1
      rw [read_nil, Memory.read, if_pos rfl] at this
      cases this
    | cons f n =>
      have he := List.pairwise_cons.1 hm
      have hf := List.pairwise_cons.1 hn
      have hkey : e.1 = f.1 := by
        rcases Nat.lt_trichotomy e.1 f.1 with hlt | heq | hgt
        · have := h e.1
          rw [Memory.read, if_pos rfl, Memory.read, if_neg (Nat.ne_of_gt hlt),
            read_of_lt fun g hg => hlt.trans (hf.1 g hg)] at this
          cases this
        · exact heq
        · have := h f.1
          rw [Memory.read, if_neg (Nat.ne_of_gt hgt), read_of_lt fun g hg => hgt.trans (he.1 g hg),
            Memory.read, if_pos rfl] at this
          cases this
      have hword : e.2 = f.2 := by
        have := h e.1
        rw [Memory.read, if_pos rfl, Memory.read, if_pos hkey.symm] at this
        exact Cell.word.inj this
      have htail : m = n := by
        refine ih he.2 hf.2 fun a => ?_
        by_cases ha : e.1 = a
        · subst ha
          rw [read_of_lt fun g hg => he.1 g hg, read_of_lt fun g hg => hkey ▸ hf.1 g hg]
        · have := h a
          rwa [Memory.read, if_neg ha, Memory.read, if_neg (hkey ▸ ha)] at this
      rw [Prod.ext hkey hword, htail]

end Sys2Proof.Laws
end

