-- ==== Sys2Proof/Laws/State.lean ====
section
/-! SUPPORT. One lemma for each field of each state update, true by definition, and the register file's read after
write. -/

namespace Sys2Proof.Laws

open Sys2Proof.Machine

@[simp] theorem get_set_same (x : RegFile) (r : Reg) (c : Cell) : (x.set r c).get r = c := by
  cases r <;> rfl

@[simp] theorem get_set_other (x : RegFile) {r r' : Reg} (c : Cell) (h : r' ≠ r) : (x.set r c).get r' = x.get r' := by
  cases r <;> cases r' <;> first | rfl | exact absurd rfl h

/-- Two register files that agree on every register are equal. -/
theorem regFile_ext {x y : RegFile} (h : ∀ r, x.get r = y.get r) : x = y := by
  cases x
  cases y
  have h0 := h .r0
  have h1 := h .r1
  have h2 := h .r2
  have h3 := h .r3
  have h4 := h .r4
  have h5 := h .r5
  have h6 := h .r6
  have h7 := h .r7
  simp only [RegFile.get] at h0 h1 h2 h3 h4 h5 h6 h7
  simp only [h0, h1, h2, h3, h4, h5, h6, h7]

variable (s : State) (r : Reg) (c : Cell) (reason : HaltReason) (index : BitVec 4) (w : Word)

@[simp] theorem readReg_eq : s.readReg r = s.regs.get r := rfl

@[simp] theorem writeReg_regs : (s.writeReg r c).regs = s.regs.set r c := rfl
@[simp] theorem writeReg_mem : (s.writeReg r c).mem = s.mem := rfl
@[simp] theorem writeReg_pc : (s.writeReg r c).pc = s.pc := rfl
@[simp] theorem writeReg_run : (s.writeReg r c).run = s.run := rfl
@[simp] theorem writeReg_status : (s.writeReg r c).status = s.status := rfl
@[simp] theorem writeReg_programLoaded : (s.writeReg r c).programLoaded = s.programLoaded := rfl

@[simp] theorem advancePc_regs : s.advancePc.regs = s.regs := rfl
@[simp] theorem advancePc_mem : s.advancePc.mem = s.mem := rfl
@[simp] theorem advancePc_pc : s.advancePc.pc = s.pc + 1 := rfl
@[simp] theorem advancePc_run : s.advancePc.run = s.run := rfl
@[simp] theorem advancePc_status : s.advancePc.status = s.status := rfl
@[simp] theorem advancePc_programLoaded : s.advancePc.programLoaded = s.programLoaded := rfl

@[simp] theorem halt_regs : (s.halt reason).regs = s.regs := rfl
@[simp] theorem halt_mem : (s.halt reason).mem = s.mem := rfl
@[simp] theorem halt_pc : (s.halt reason).pc = s.pc := rfl
@[simp] theorem halt_run : (s.halt reason).run = .halted := rfl
@[simp] theorem halt_status : (s.halt reason).status =
    setStatusHaltReason (setStatusRun s.status RunState.halted.code) reason.code := rfl
@[simp] theorem halt_programLoaded : (s.halt reason).programLoaded = s.programLoaded := rfl

@[simp] theorem raise_regs : (s.raiseRegisterIndexFault index).regs = s.regs := rfl
@[simp] theorem raise_mem : (s.raiseRegisterIndexFault index).mem = s.mem := rfl
@[simp] theorem raise_pc : (s.raiseRegisterIndexFault index).pc = s.pc := rfl
@[simp] theorem raise_run : (s.raiseRegisterIndexFault index).run = .halted := rfl
@[simp] theorem raise_status : (s.raiseRegisterIndexFault index).status =
    setStatusBadIdx (s.halt .fault).status index := rfl
@[simp] theorem raise_programLoaded : (s.raiseRegisterIndexFault index).programLoaded = s.programLoaded := rfl

@[simp] theorem start_regs : s.start.regs = s.regs := rfl
@[simp] theorem start_mem : s.start.mem = s.mem := rfl
@[simp] theorem start_pc : s.start.pc = 0 := rfl
@[simp] theorem start_run : s.start.run = .running := rfl
@[simp] theorem start_status : s.start.status = setStatusRun s.status RunState.running.code := rfl
@[simp] theorem start_programLoaded : s.start.programLoaded = s.programLoaded := rfl

@[simp] theorem aboutToFetch_regs : (s.aboutToFetch w).regs = s.regs := rfl
@[simp] theorem aboutToFetch_run : (s.aboutToFetch w).run = .running := rfl
@[simp] theorem aboutToFetch_programLoaded : (s.aboutToFetch w).programLoaded = s.programLoaded := rfl

end Sys2Proof.Laws
end

