-- ==== Sys2Proof/Laws/Status.lean ====
section
/-! SUPPORT. The laws of the STATUS register: each field of a packed STATUS word is the field packed, so that a field
write sets its field and keeps the others. -/

namespace Sys2Proof.Laws

open Sys2Proof.Machine

/-- Bit `k` of a packed STATUS word, field by field. -/
theorem getLsbD_statusPack (z : BitVec 8) (x : BitVec 4) (y r : BitVec 2) (k : Nat) :
    (statusPack z x y r).getLsbD k =
      if k < 2 then r.getLsbD k else if k < 4 then y.getLsbD (k - 2) else if k < 8 then x.getLsbD (k - 4)
      else z.getLsbD (k - 8) := by
  unfold statusPack
  simp only [BitVec.getLsbD_append]
  have e1 : k - 2 - 2 = k - 4 := by omega
  have e2 : k - 4 - 4 = k - 8 := by omega
  rw [e1, e2]
  by_cases h2 : k < 2
  · simp [h2]
  by_cases h4 : k < 4
  · simp [h2, h4, show k - 2 < 2 by omega]
  by_cases h8 : k < 8
  · simp [h2, h4, h8, show ¬ k - 2 < 2 by omega, show k - 4 < 4 by omega]
  · simp [h2, h4, h8, show ¬ k - 2 < 2 by omega, show ¬ k - 4 < 4 by omega]

variable (z : BitVec 8) (x : BitVec 4) (y r : BitVec 2) (w : BitVec 16)

@[simp] theorem statusRun_pack : statusRun (statusPack z x y r) = r := by
  ext k hk
  rw [statusRun, BitVec.getElem_extractLsb', getLsbD_statusPack, if_pos (by omega), ← BitVec.getLsbD_eq_getElem]
  congr 1
  omega

@[simp] theorem statusHaltReason_pack : statusHaltReason (statusPack z x y r) = y := by
  ext k hk
  rw [statusHaltReason, BitVec.getElem_extractLsb', getLsbD_statusPack, if_neg (by omega), if_pos (by omega),
    ← BitVec.getLsbD_eq_getElem]
  congr 1
  omega

@[simp] theorem statusBadIdx_pack : statusBadIdx (statusPack z x y r) = x := by
  ext k hk
  rw [statusBadIdx, BitVec.getElem_extractLsb', getLsbD_statusPack, if_neg (by omega), if_neg (by omega),
    if_pos (by omega), ← BitVec.getLsbD_eq_getElem]
  congr 1
  omega

@[simp] theorem statusReserved_pack : statusReserved (statusPack z x y r) = z := by
  ext k hk
  rw [statusReserved, BitVec.getElem_extractLsb', getLsbD_statusPack, if_neg (by omega), if_neg (by omega),
    if_neg (by omega), ← BitVec.getLsbD_eq_getElem]
  congr 1
  omega

/-- A STATUS word is its four fields. -/
theorem statusPack_fields :
    statusPack (statusReserved w) (statusBadIdx w) (statusHaltReason w) (statusRun w) = w := by
  ext k hk
  rw [← BitVec.getLsbD_eq_getElem, ← BitVec.getLsbD_eq_getElem, getLsbD_statusPack]
  split
  · simp [statusRun, *]
  split
  · simp only [statusHaltReason, BitVec.getLsbD_extractLsb', show k - 2 < 2 by omega, decide_true, Bool.true_and]
    congr 1
    omega
  split
  · simp only [statusBadIdx, BitVec.getLsbD_extractLsb', show k - 4 < 4 by omega, decide_true, Bool.true_and]
    congr 1
    omega
  · simp only [statusReserved, BitVec.getLsbD_extractLsb', show k - 8 < 8 by omega, decide_true, Bool.true_and]
    congr 1
    omega

@[simp] theorem statusRun_setRun : statusRun (setStatusRun w r) = r := statusRun_pack ..
@[simp] theorem statusHaltReason_setRun : statusHaltReason (setStatusRun w r) = statusHaltReason w :=
  statusHaltReason_pack ..
@[simp] theorem statusBadIdx_setRun : statusBadIdx (setStatusRun w r) = statusBadIdx w := statusBadIdx_pack ..
@[simp] theorem statusReserved_setRun : statusReserved (setStatusRun w r) = statusReserved w := statusReserved_pack ..

@[simp] theorem statusRun_setHaltReason : statusRun (setStatusHaltReason w y) = statusRun w := statusRun_pack ..
@[simp] theorem statusHaltReason_setHaltReason : statusHaltReason (setStatusHaltReason w y) = y :=
  statusHaltReason_pack ..
@[simp] theorem statusBadIdx_setHaltReason : statusBadIdx (setStatusHaltReason w y) = statusBadIdx w :=
  statusBadIdx_pack ..
@[simp] theorem statusReserved_setHaltReason : statusReserved (setStatusHaltReason w y) = statusReserved w :=
  statusReserved_pack ..

@[simp] theorem statusRun_setBadIdx : statusRun (setStatusBadIdx w x) = statusRun w := statusRun_pack ..
@[simp] theorem statusHaltReason_setBadIdx : statusHaltReason (setStatusBadIdx w x) = statusHaltReason w :=
  statusHaltReason_pack ..
@[simp] theorem statusBadIdx_setBadIdx : statusBadIdx (setStatusBadIdx w x) = x := statusBadIdx_pack ..
@[simp] theorem statusReserved_setBadIdx : statusReserved (setStatusBadIdx w x) = statusReserved w :=
  statusReserved_pack ..

/-- The code of a sequencer state names it. -/
theorem runCode_injective {a b : RunState} (h : a.code = b.code) : a = b := by
  revert h
  cases a <;> cases b <;> decide

/-- The code of a halt reason names it. -/
theorem reasonCode_injective {a b : HaltReason} (h : a.code = b.code) : a = b := by
  revert h
  cases a <;> cases b <;> decide

end Sys2Proof.Laws
end

