-- ==== Sys2Proof/Laws/HostPort.lean ====
section
/-! SUPPORT. What a request of the host can do, said once; the fault state in its fields; and the canonical memory of the
reset state and of a state about to fetch. -/

namespace Sys2Proof.Laws

open Sys2Proof.Machine

/-- Everything a request can do (rules R187, R188, R196): the state stays, or the request is a command that the state
admits, and the command's effect is the answer. -/
theorem request_cases (r : Request) (s : State) :
    (request r s).2 = s ∨
      ∃ c, r.toCommand = some c ∧ c.admitted s = true ∧ request r s = c.effect s := by
  unfold request
  cases h : r.toCommand with
  | none => exact .inl rfl
  | some c =>
    simp only [command]
    split
    · next ha => exact .inr ⟨c, rfl, ha, rfl⟩
    · exact .inl rfl

/-- The fault leaves the state of rule R171, in its fields. -/
theorem raise_eq_faultedWith (s : State) (index : BitVec 4) :
    s.raiseRegisterIndexFault index = s.faultedWith index := by
  simp only [State.raiseRegisterIndexFault, State.halt, State.faultedWith, setStatusBadIdx, setStatusHaltReason,
    setStatusRun, statusRun_pack, statusReserved_pack, statusHaltReason_pack]
  rfl

theorem reset_mem_wf : State.reset.mem.wf := by
  decide

theorem aboutToFetch_mem_wf {s : State} (h : s.mem.wf) (w : Word) : (s.aboutToFetch w).mem.wf := by
  show (s.mem.write (if Config.nmem ≤ s.pc.toNat then (0 : BitVec 6) else s.pc).toNat (.word w)).wf
  refine write_wf h ?_ _
  rw [nmem_eq]
  split
  · decide
  · omega

theorem runFor_next {s t : State} (h : step s = .next t) (n : Nat) : runFor (n + 1) s = runFor n t := by
  simp only [runFor, h]

end Sys2Proof.Laws
end

