-- ==== Sys2Proof/Laws/Operands.lean ====
section
/-! SUPPORT. What the shared operations of the two families can do, said once: the ALU operands, the ALU shape, LOAD and
STORE. -/

namespace Sys2Proof.Laws

open Sys2Proof.Machine

theorem aluOperands_imm (k : Nat) (b : Reg) (s : State) :
    aluOperands (.imm k) b s = .sources k (val (s.regs.get b)) := rfl

theorem aluOperands_reg (r b : Reg) (s : State) :
    aluOperands (.reg r.index) b s = .sources (val (s.regs.get r)) (val (s.regs.get b)) := by
  simp only [aluOperands, reg_ofIndex_index, readReg_eq]

theorem aluOperands_bad {n : Nat} (h : 8 ≤ n) (b : Reg) (s : State) :
    aluOperands (.reg n) b s = .badIndex (BitVec.ofNat 4 n) := by
  simp only [aluOperands, (reg_ofIndex_eq_none_iff n).2 h]

/-- The three forms of sourceA: a literal, a register that exists, an index that names none. -/
theorem sourceA_cases (a : SourceA) :
    (∃ k, a = .imm k) ∨ (∃ r : Reg, a = .reg r.index) ∨ ∃ n, 8 ≤ n ∧ a = .reg n := by
  cases a with
  | imm k => exact .inl ⟨k, rfl⟩
  | reg n =>
    cases hn : Reg.ofIndex n with
    | none => exact .inr (.inr ⟨n, (reg_ofIndex_eq_none_iff n).1 hn, rfl⟩)
    | some r => exact .inr (.inl ⟨r, congrArg SourceA.reg ((reg_ofIndex_eq_some_iff n r).1 hn)⟩)

/-- Everything an ALU word can do (rules R100, R101, R110): the fault on an index that names no register, a result
written, nothing written, or the stop of the model-only policy. -/
theorem aluInstr_cases (op : Nat → Nat → AluEffect) (d : Reg) (a : SourceA) (b : Reg) (s : State) :
    (∃ n, 8 ≤ n ∧ a = .reg n ∧ aluInstr op d a b s = .next (s.raiseRegisterIndexFault (BitVec.ofNat 4 n))) ∨
    (∃ x y, aluOperands a b s = .sources x y ∧
      ((∃ c, op x y = .write c ∧ aluInstr op d a b s = .next (s.writeReg d c).advancePc) ∨
       (op x y = .nothing ∧ aluInstr op d a b s = .next s.advancePc) ∨
       (∃ f, op x y = .stop f ∧ aluInstr op d a b s = .fault f))) := by
  have key : ∀ x y, aluOperands a b s = .sources x y →
      ((∃ c, op x y = .write c ∧ aluInstr op d a b s = .next (s.writeReg d c).advancePc) ∨
       (op x y = .nothing ∧ aluInstr op d a b s = .next s.advancePc) ∨
       (∃ f, op x y = .stop f ∧ aluInstr op d a b s = .fault f)) := by
    intro x y h
    cases ho : op x y with
    | write c => exact .inl ⟨c, rfl, by simp only [aluInstr, h, ho]⟩
    | nothing => exact .inr (.inl ⟨rfl, by simp only [aluInstr, h, ho]⟩)
    | stop f => exact .inr (.inr ⟨f, rfl, by simp only [aluInstr, h, ho]⟩)
  rcases sourceA_cases a with ⟨k, rfl⟩ | ⟨r, rfl⟩ | ⟨n, hn, rfl⟩
  · exact .inr ⟨_, _, aluOperands_imm k b s, key _ _ (aluOperands_imm k b s)⟩
  · exact .inr ⟨_, _, aluOperands_reg r b s, key _ _ (aluOperands_reg r b s)⟩
  · exact .inl ⟨n, hn, rfl, by simp only [aluInstr, aluOperands_bad hn]⟩

/-- Under the default policy SUB always writes its wrapped difference (rule R105). -/
theorem subtract_wrap (x y : Nat) : subtract Config.subNegPolicy x y = .write (enc ((x : Int) - (y : Int))) := by
  unfold subtract Config.subNegPolicy
  rw [if_neg]
  rintro ⟨-, h⟩
  cases h

theorem readCell_inside (s : State) {a : Nat} (h : a < 40) : s.readCell? a = some (s.mem.read a) := if_pos h
theorem readCell_outside (s : State) {a : Nat} (h : 40 ≤ a) : s.readCell? a = none := if_neg (Nat.not_lt.2 h)
theorem writeCell_inside (s : State) {a : Nat} (c : Cell) (h : a < 40) :
    s.writeCell? a c = some { s with mem := s.mem.write a c } := if_pos h
theorem writeCell_outside (s : State) {a : Nat} (c : Cell) (h : 40 ≤ a) : s.writeCell? a c = none :=
  if_neg (Nat.not_lt.2 h)

/-- LOAD at a cell that exists copies the cell (rules R126, R127). -/
theorem execLoad_next (r : Reg) {a : Nat} (x : Spare) (s : State) (h : a < 40) :
    execLoad r a x s = .next (s.writeReg r (s.mem.read a)).advancePc := by
  simp only [execLoad, readCell_inside s h]

/-- STORE at a cell that exists copies the register's cell (rules R128, R129). -/
theorem execStore_next (r : Reg) {a : Nat} (x : Spare) (s : State) (h : a < 40) :
    execStore r a x s = .next ({ s with mem := s.mem.write a (s.regs.get r) }).advancePc := by
  simp only [execStore, writeCell_inside s _ h, readReg_eq]

/-- LOAD outside the cells stops; no decoded word reaches it (rule R132). -/
theorem execLoad_outside (r : Reg) {a : Nat} (x : Spare) (s : State) (h : 40 ≤ a) :
    execLoad r a x s = .fault .noSuchCell := by
  simp only [execLoad, readCell_outside s h]

/-- STORE outside the cells stops; no decoded word reaches it (rule R132). -/
theorem execStore_outside (r : Reg) {a : Nat} (x : Spare) (s : State) (h : 40 ≤ a) :
    execStore r a x s = .fault .noSuchCell := by
  simp only [execStore, writeCell_outside s _ h]

end Sys2Proof.Laws
end

