-- ==== Sys2Proof/Laws/PerInstr.lean ====
section
/-! SUPPORT. Laws stated per instruction. RoundTrip: decoding a well-formed instruction's word gives the instruction
back (rules R77, R84, R85). -/

namespace Sys2Proof.Laws.RoundTrip

/-- A well-formed instruction's word decodes to it. -/
def Statement (i : Instr) : Prop :=
  i.wellFormed = true → decode (encode i) = i

theorem add (d : Reg) (a : SourceA) (b : Reg) : Statement (.add d a b) :=
  fun h => (Sys2Proof.Laws.decode_encodeAlu (Instr.add d a b).code (by simp [Instr.code]) d a b h).trans (by simp [Instr.code, decodeAlu])

theorem sub (d : Reg) (a : SourceA) (b : Reg) : Statement (.sub d a b) :=
  fun h => (Sys2Proof.Laws.decode_encodeAlu (Instr.sub d a b).code (by simp [Instr.code]) d a b h).trans (by simp [Instr.code, decodeAlu])

theorem and (d : Reg) (a : SourceA) (b : Reg) : Statement (.and d a b) :=
  fun h => (Sys2Proof.Laws.decode_encodeAlu (Instr.and d a b).code (by simp [Instr.code]) d a b h).trans (by simp [Instr.code, decodeAlu])

theorem or (d : Reg) (a : SourceA) (b : Reg) : Statement (.or d a b) :=
  fun h => (Sys2Proof.Laws.decode_encodeAlu (Instr.or d a b).code (by simp [Instr.code]) d a b h).trans (by simp [Instr.code, decodeAlu])

theorem xor (d : Reg) (a : SourceA) (b : Reg) : Statement (.xor d a b) :=
  fun h => (Sys2Proof.Laws.decode_encodeAlu (Instr.xor d a b).code (by simp [Instr.code]) d a b h).trans (by simp [Instr.code, decodeAlu])

theorem nopa5 (d : Reg) (a : SourceA) (b : Reg) : Statement (.nopa5 d a b) :=
  fun h => (Sys2Proof.Laws.decode_encodeAlu (Instr.nopa5 d a b).code (by simp [Instr.code]) d a b h).trans (by simp [Instr.code, decodeAlu])

theorem nopa6 (d : Reg) (a : SourceA) (b : Reg) : Statement (.nopa6 d a b) :=
  fun h => (Sys2Proof.Laws.decode_encodeAlu (Instr.nopa6 d a b).code (by simp [Instr.code]) d a b h).trans (by simp [Instr.code, decodeAlu])

theorem nopa7 (d : Reg) (a : SourceA) (b : Reg) : Statement (.nopa7 d a b) :=
  fun h => (Sys2Proof.Laws.decode_encodeAlu (Instr.nopa7 d a b).code (by simp [Instr.code]) d a b h).trans (by simp [Instr.code, decodeAlu])

theorem nopa8 (d : Reg) (a : SourceA) (b : Reg) : Statement (.nopa8 d a b) :=
  fun h => (Sys2Proof.Laws.decode_encodeAlu (Instr.nopa8 d a b).code (by simp [Instr.code]) d a b h).trans (by simp [Instr.code, decodeAlu])

theorem nopa9 (d : Reg) (a : SourceA) (b : Reg) : Statement (.nopa9 d a b) :=
  fun h => (Sys2Proof.Laws.decode_encodeAlu (Instr.nopa9 d a b).code (by simp [Instr.code]) d a b h).trans (by simp [Instr.code, decodeAlu])

theorem nopa10 (d : Reg) (a : SourceA) (b : Reg) : Statement (.nopa10 d a b) :=
  fun h => (Sys2Proof.Laws.decode_encodeAlu (Instr.nopa10 d a b).code (by simp [Instr.code]) d a b h).trans (by simp [Instr.code, decodeAlu])

theorem nopa11 (d : Reg) (a : SourceA) (b : Reg) : Statement (.nopa11 d a b) :=
  fun h => (Sys2Proof.Laws.decode_encodeAlu (Instr.nopa11 d a b).code (by simp [Instr.code]) d a b h).trans (by simp [Instr.code, decodeAlu])

theorem nopa12 (d : Reg) (a : SourceA) (b : Reg) : Statement (.nopa12 d a b) :=
  fun h => (Sys2Proof.Laws.decode_encodeAlu (Instr.nopa12 d a b).code (by simp [Instr.code]) d a b h).trans (by simp [Instr.code, decodeAlu])

theorem nopa13 (d : Reg) (a : SourceA) (b : Reg) : Statement (.nopa13 d a b) :=
  fun h => (Sys2Proof.Laws.decode_encodeAlu (Instr.nopa13 d a b).code (by simp [Instr.code]) d a b h).trans (by simp [Instr.code, decodeAlu])

theorem nopa14 (d : Reg) (a : SourceA) (b : Reg) : Statement (.nopa14 d a b) :=
  fun h => (Sys2Proof.Laws.decode_encodeAlu (Instr.nopa14 d a b).code (by simp [Instr.code]) d a b h).trans (by simp [Instr.code, decodeAlu])

theorem nopa15 (d : Reg) (a : SourceA) (b : Reg) : Statement (.nopa15 d a b) :=
  fun h => (Sys2Proof.Laws.decode_encodeAlu (Instr.nopa15 d a b).code (by simp [Instr.code]) d a b h).trans (by simp [Instr.code, decodeAlu])

theorem nopd0 (r : Reg) (a : Nat) (x : Spare) : Statement (.nopd0 r a x) :=
  fun h => (Sys2Proof.Laws.decode_encodeDt (Instr.nopd0 r a x).code (by simp [Instr.code]) r a x h).trans (by simp [Instr.code, decodeDt])

theorem nopd1 (r : Reg) (a : Nat) (x : Spare) : Statement (.nopd1 r a x) :=
  fun h => (Sys2Proof.Laws.decode_encodeDt (Instr.nopd1 r a x).code (by simp [Instr.code]) r a x h).trans (by simp [Instr.code, decodeDt])

theorem nopd2 (r : Reg) (a : Nat) (x : Spare) : Statement (.nopd2 r a x) :=
  fun h => (Sys2Proof.Laws.decode_encodeDt (Instr.nopd2 r a x).code (by simp [Instr.code]) r a x h).trans (by simp [Instr.code, decodeDt])

theorem nopd3 (r : Reg) (a : Nat) (x : Spare) : Statement (.nopd3 r a x) :=
  fun h => (Sys2Proof.Laws.decode_encodeDt (Instr.nopd3 r a x).code (by simp [Instr.code]) r a x h).trans (by simp [Instr.code, decodeDt])

theorem nopd4 (r : Reg) (a : Nat) (x : Spare) : Statement (.nopd4 r a x) :=
  fun h => (Sys2Proof.Laws.decode_encodeDt (Instr.nopd4 r a x).code (by simp [Instr.code]) r a x h).trans (by simp [Instr.code, decodeDt])

theorem load (r : Reg) (a : Nat) (x : Spare) : Statement (.load r a x) :=
  fun h => (Sys2Proof.Laws.decode_encodeDt (Instr.load r a x).code (by simp [Instr.code]) r a x h).trans (by simp [Instr.code, decodeDt])

theorem store (r : Reg) (a : Nat) (x : Spare) : Statement (.store r a x) :=
  fun h => (Sys2Proof.Laws.decode_encodeDt (Instr.store r a x).code (by simp [Instr.code]) r a x h).trans (by simp [Instr.code, decodeDt])

theorem nopd7 (r : Reg) (a : Nat) (x : Spare) : Statement (.nopd7 r a x) :=
  fun h => (Sys2Proof.Laws.decode_encodeDt (Instr.nopd7 r a x).code (by simp [Instr.code]) r a x h).trans (by simp [Instr.code, decodeDt])

theorem nopd8 (r : Reg) (a : Nat) (x : Spare) : Statement (.nopd8 r a x) :=
  fun h => (Sys2Proof.Laws.decode_encodeDt (Instr.nopd8 r a x).code (by simp [Instr.code]) r a x h).trans (by simp [Instr.code, decodeDt])

theorem nopd9 (r : Reg) (a : Nat) (x : Spare) : Statement (.nopd9 r a x) :=
  fun h => (Sys2Proof.Laws.decode_encodeDt (Instr.nopd9 r a x).code (by simp [Instr.code]) r a x h).trans (by simp [Instr.code, decodeDt])

theorem nopd10 (r : Reg) (a : Nat) (x : Spare) : Statement (.nopd10 r a x) :=
  fun h => (Sys2Proof.Laws.decode_encodeDt (Instr.nopd10 r a x).code (by simp [Instr.code]) r a x h).trans (by simp [Instr.code, decodeDt])

theorem nopd11 (r : Reg) (a : Nat) (x : Spare) : Statement (.nopd11 r a x) :=
  fun h => (Sys2Proof.Laws.decode_encodeDt (Instr.nopd11 r a x).code (by simp [Instr.code]) r a x h).trans (by simp [Instr.code, decodeDt])

theorem nopd12 (r : Reg) (a : Nat) (x : Spare) : Statement (.nopd12 r a x) :=
  fun h => (Sys2Proof.Laws.decode_encodeDt (Instr.nopd12 r a x).code (by simp [Instr.code]) r a x h).trans (by simp [Instr.code, decodeDt])

theorem nopd13 (r : Reg) (a : Nat) (x : Spare) : Statement (.nopd13 r a x) :=
  fun h => (Sys2Proof.Laws.decode_encodeDt (Instr.nopd13 r a x).code (by simp [Instr.code]) r a x h).trans (by simp [Instr.code, decodeDt])

theorem nopd14 (r : Reg) (a : Nat) (x : Spare) : Statement (.nopd14 r a x) :=
  fun h => (Sys2Proof.Laws.decode_encodeDt (Instr.nopd14 r a x).code (by simp [Instr.code]) r a x h).trans (by simp [Instr.code, decodeDt])

theorem nopd15 (r : Reg) (a : Nat) (x : Spare) : Statement (.nopd15 r a x) :=
  fun h => (Sys2Proof.Laws.decode_encodeDt (Instr.nopd15 r a x).code (by simp [Instr.code]) r a x h).trans (by simp [Instr.code, decodeDt])

end Sys2Proof.Laws.RoundTrip
end

