-- ==== Sys2Proof/Laws/Step.lean ====
section
/-! SUPPORT. What the fetch and the step can do, said once. -/

namespace Sys2Proof.Laws

open Sys2Proof.Machine

theorem fetch_atBound {s : State} (h : 40 ≤ s.pc.toNat) : s.fetch = .atBound := by
  unfold State.fetch
  rw [nmem_eq, if_pos h]

theorem fetch_empty {s : State} (h : s.pc.toNat < 40) (hc : s.mem.read s.pc.toNat = .empty) : s.fetch = .empty := by
  unfold State.fetch
  rw [nmem_eq, if_neg (by omega), hc]

theorem fetch_instr {s : State} {w : Word} (h : s.pc.toNat < 40) (hc : s.mem.read s.pc.toNat = .word w) :
    s.fetch = .instr w := by
  unfold State.fetch
  rw [nmem_eq, if_neg (by omega), hc]

/-- Everything a step with a next state can be (rules R141 to R145): the core was RUNNING, and it met the bound, an
EMPTY cell, or a word whose instruction it ran. -/
theorem step_cases {s s' : State} (h : step s = .next s') :
    s.run = .running ∧
      ((40 ≤ s.pc.toNat ∧ s' = s.halt .bound) ∨
       (s.pc.toNat < 40 ∧ s.mem.read s.pc.toNat = .empty ∧ s' = s.halt .emptyCell) ∨
       (∃ w, s.pc.toNat < 40 ∧ s.mem.read s.pc.toNat = .word w ∧ exec (decode w) s = .next s')) := by
  unfold step at h
  split at h
  · cases h
  · cases h
  · next hr =>
    refine ⟨hr, ?_⟩
    by_cases hb : 40 ≤ s.pc.toNat
    · rw [fetch_atBound hb] at h
      cases h
      exact .inl ⟨hb, rfl⟩
    · have hlt : s.pc.toNat < 40 := Nat.lt_of_not_le hb
      cases hc : s.mem.read s.pc.toNat with
      | empty =>
        rw [fetch_empty hlt hc] at h
        cases h
        exact .inr (.inl ⟨hlt, rfl, rfl⟩)
      | word w =>
        rw [fetch_instr hlt hc] at h
        exact .inr (.inr ⟨w, hlt, rfl, h⟩)

end Sys2Proof.Laws
end

