-- ==== Sys2Proof/Tests/Slice0.lean ====
section
/-! SUPPORT. The model's own tests: ill-formed terms, decoded words written out from the spec's encoding, one-step vectors
of spec/95_test_vectors.md, and for every statement with hypotheses a state and operands that meet them. -/

namespace Sys2Proof.Tests

open Sys2Proof.Machine

/-! ## Well-formedness: a term that each check refuses, and the last one it accepts -/

theorem test_index_too_wide : (Instr.add .r0 (.reg 16) .r0).wellFormed = false := by decide
theorem test_literal_too_wide : (Instr.nopa5 .r0 (.imm 16) .r0).wellFormed = false := by decide
theorem test_address_too_wide : (Instr.store .r0 16 .zero).wellFormed = false := by decide
theorem test_widest_operands : (Instr.add .r0 (.reg 15) .r0).wellFormed = true ∧
    (Instr.nopa5 .r0 (.imm 15) .r0).wellFormed = true ∧ (Instr.store .r0 15 .zero).wellFormed = true := by decide

/-! ## Decoding: a word for every constructor, its bits as rules R76 and R85 give them: t, opcode, i, operand1,
operand2, operand3 -/

theorem test_decode_add : decode 0b0000000010011010#16 = .add .r1 (.reg 3) .r2 := by decide
theorem test_decode_sub : decode 0b0000110101000101#16 = .sub .r2 (.imm 8) .r5 := by decide
theorem test_decode_and : decode 0b0001000111101000#16 = .and .r3 (.reg 13) .r0 := by decide
theorem test_decode_or : decode 0b0001111000010011#16 = .or .r4 (.imm 2) .r3 := by decide
theorem test_decode_xor : decode 0b0010001010111110#16 = .xor .r5 (.reg 7) .r6 := by decide
theorem test_decode_nopa5 : decode 0b0010111101100001#16 = .nopa5 .r6 (.imm 12) .r1 := by decide
theorem test_decode_nopa6 : decode 0b0011001110001100#16 = .nopa6 .r7 (.reg 1) .r4 := by decide
theorem test_decode_nopa7 : decode 0b0011110010110111#16 = .nopa7 .r1 (.imm 6) .r7 := by decide
theorem test_decode_nopa8 : decode 0b0100000101011010#16 = .nopa8 .r2 (.reg 11) .r2 := by decide
theorem test_decode_nopa9 : decode 0b0100110110000101#16 = .nopa9 .r3 (.imm 0) .r5 := by decide
theorem test_decode_nopa10 : decode 0b0101001000101000#16 = .nopa10 .r4 (.reg 5) .r0 := by decide
theorem test_decode_nopa11 : decode 0b0101111011010011#16 = .nopa11 .r5 (.imm 10) .r3 := by decide
theorem test_decode_nopa12 : decode 0b0110001101111110#16 = .nopa12 .r6 (.reg 15) .r6 := by decide
theorem test_decode_nopa13 : decode 0b0110111110100001#16 = .nopa13 .r7 (.imm 4) .r1 := by decide
theorem test_decode_nopa14 : decode 0b0111000011001100#16 = .nopa14 .r1 (.reg 9) .r4 := by decide
theorem test_decode_nopa15 : decode 0b0111110101110111#16 = .nopa15 .r2 (.imm 14) .r7 := by decide
theorem test_decode_nopd0 : decode 0b1000000010011010#16 = .nopd0 .r1 3 ⟨false, 2⟩ := by decide
theorem test_decode_nopd1 : decode 0b1000110101000101#16 = .nopd1 .r2 8 ⟨true, 5⟩ := by decide
theorem test_decode_nopd2 : decode 0b1001000111101000#16 = .nopd2 .r3 13 ⟨false, 0⟩ := by decide
theorem test_decode_nopd3 : decode 0b1001111000010011#16 = .nopd3 .r4 2 ⟨true, 3⟩ := by decide
theorem test_decode_nopd4 : decode 0b1010001010111110#16 = .nopd4 .r5 7 ⟨false, 6⟩ := by decide
theorem test_decode_load : decode 0b1010111101100001#16 = .load .r6 12 ⟨true, 1⟩ := by decide
theorem test_decode_store : decode 0b1011001110001100#16 = .store .r7 1 ⟨false, 4⟩ := by decide
theorem test_decode_nopd7 : decode 0b1011110010110111#16 = .nopd7 .r1 6 ⟨true, 7⟩ := by decide
theorem test_decode_nopd8 : decode 0b1100000101011010#16 = .nopd8 .r2 11 ⟨false, 2⟩ := by decide
theorem test_decode_nopd9 : decode 0b1100110110000101#16 = .nopd9 .r3 0 ⟨true, 5⟩ := by decide
theorem test_decode_nopd10 : decode 0b1101001000101000#16 = .nopd10 .r4 5 ⟨false, 0⟩ := by decide
theorem test_decode_nopd11 : decode 0b1101111011010011#16 = .nopd11 .r5 10 ⟨true, 3⟩ := by decide
theorem test_decode_nopd12 : decode 0b1110001101111110#16 = .nopd12 .r6 15 ⟨false, 6⟩ := by decide
theorem test_decode_nopd13 : decode 0b1110111110100001#16 = .nopd13 .r7 4 ⟨true, 1⟩ := by decide
theorem test_decode_nopd14 : decode 0b1111000011001100#16 = .nopd14 .r1 9 ⟨false, 4⟩ := by decide
theorem test_decode_nopd15 : decode 0b1111110101110111#16 = .nopd15 .r2 14 ⟨true, 7⟩ := by decide

/-- An EMPTY cell is rejected by name (rule R88); the all-zero word is ADD R0, R0, R0. -/
theorem test_decode_cell : (decodeCell .empty).isOk = false ∧ (decodeCell (.word 0)).isOk = true ∧
    decode 0 = .add .r0 (.reg 0) .r0 := by decide

theorem test_decodeTableWord : decodeTableWord 16 0xB050 = some (.store .r0 10 .zero) ∧
    decodeTableWord 16 65536 = none ∧ decodeTableWord 17 0 = none := by decide

/-! ## One step: the vectors of 95_test_vectors.md, sections 3 to 5 -/

/-- A RUNNING core with R2, R3, R4 and the memory given, and the pc at 0. -/
def core (x2 x3 x4 : Cell) (mem : Memory) : State :=
  { State.reset with
    regs := { RegFile.reset with r2 := x2, r3 := x3, r4 := x4 }
    mem := mem
    run := .running
    status := 0x0001 }

/-- The next state, where there is one. -/
def nextOf : Result → Option State
  | .next s => some s
  | .fault _ => none
  | .refused _ => none

/-- A register after one step that completes at pc = 1. -/
def regAfter (r : Reg) (s : State) : Option Cell :=
  (nextOf (step s)).bind fun t => if t.pc = 1 ∧ t.run = .running then some (t.regs.get r) else none

/-- A memory cell after one step that completes at pc = 1. -/
def cellAfter (a : Nat) (s : State) : Option Cell :=
  (nextOf (step s)).bind fun t => if t.pc = 1 ∧ t.run = .running then some (t.mem.read a) else none

/-- The halted state's pc and STATUS after one step. -/
def haltAfter (s : State) : Option (BitVec 6 × BitVec 16) :=
  (nextOf (step s)).bind fun t => if t.run = .halted then some (t.pc, t.status) else none

-- A1, A5
theorem test_add_wraps : regAfter .r1 (core (.word 0xFFFF) (.word 1) .empty [(0, 0x0093)]) = some (.word 0) ∧
    regAfter .r1 (core .empty (.word 7) .empty [(0, 0x0093)]) = some (.word 7) := by decide
-- A6, A9
theorem test_sub_wraps : regAfter .r1 (core (.word 0) (.word 1) .empty [(0, 0x0893)]) = some (.word 0xFFFF) := by decide
theorem test_sub_literal_first : regAfter .r1 (core .empty (.word 7) .empty [(0, 0x0C9B)]) = some (.word 0xFFFC) := by decide
-- A12, A13
theorem test_and : regAfter .r1 (core (.word 0xF0F0) (.word 0x3C3C) .empty [(0, 0x1093)]) = some (.word 0x3030) := by decide
theorem test_and_literal : regAfter .r1 (core .empty (.word 0xFFFF) .empty [(0, 0x14CB)]) = some (.word 9) := by decide
-- A14, A15
theorem test_or : regAfter .r1 (core (.word 0xF0F0) (.word 0x0F0F) .empty [(0, 0x1893)]) = some (.word 0xFFFF) := by decide
theorem test_or_literal : regAfter .r1 (core .empty (.word 0x1234) .empty [(0, 0x1C83)]) = some (.word 0x1234) := by decide
-- A16, A18
theorem test_xor : regAfter .r1 (core (.word 0xFFFF) (.word 0x1234) .empty [(0, 0x2093)]) = some (.word 0xEDCB) := by decide
theorem test_xor_self_empty : regAfter .r2 (core .empty (.word 1) .empty [(0, 0x2112)]) = some (.word 0) := by decide
-- A19, A20
theorem test_nopa5 : regAfter .r2 (core (.word 3) (.word 4) .empty [(0, 0x2913)]) = some (.word 3) := by decide
theorem test_nopa9_literal : regAfter .r2 (core (.word 3) (.word 4) .empty [(0, 0x4D7B)]) = some (.word 3) := by decide
-- A21, A22, A23: STATUS has RUN = 10, HALT_REASON = 11 and BADIDX
theorem test_nopa15_faults : haltAfter (core .empty .empty .empty [(0, 0x78FB)]) = some (0, 0x00FE) := by decide
theorem test_add_index_8 : haltAfter (core .empty .empty .empty [(0, 0x00C3)]) = some (0, 0x008E) ∧
    regAfter .r1 (core .empty (.word 9) .empty [(0, 0x04C3)]) = some (.word 0x11) := by decide
-- T1, T2, T3, T8
theorem test_load : regAfter .r4 (core .empty .empty .empty [(0, 0xAA38), (7, 0xCAFE)]) = some (.word 0xCAFE) ∧
    regAfter .r4 (core .empty .empty (.word 0x55) [(0, 0xAA38)]) = some .empty := by decide
theorem test_load_itself : regAfter .r4 (core .empty .empty .empty [(0, 0xAA00)]) = some (.word 0xAA00) ∧
    regAfter .r4 (core .empty .empty .empty [(0, 0xAE3F), (7, 0x42)]) = some (.word 0x42) := by decide
-- T4, T5
theorem test_store : cellAfter 15 (core .empty .empty (.word 0xABCD) [(0, 0xB278)]) = some (.word 0xABCD) := by decide
theorem test_store_empty : cellAfter 9 (core .empty .empty .empty [(0, 0xB248), (9, 0x1111)]) = some .empty := by decide
-- T6, T7
theorem test_nopd0 : cellAfter 7 (core .empty .empty (.word 1) [(0, 0x8238), (7, 2)]) = some (.word 2) := by decide
theorem test_nopd15 : regAfter .r7 (core .empty .empty .empty [(0, 0xFFFF), (15, 2)]) = some (.word 0) := by decide
-- S6, E10, E11: the two normal halts
theorem test_empty_halts : haltAfter (core .empty .empty .empty []) = some (0, 0x0006) := by decide
theorem test_bound_halts : haltAfter { core .empty .empty .empty [] with pc := 40 } = some (40, 0x000A) := by decide

/-- The first instruction after reset, through withFetchWord: R92's STORE R0, [10]. -/
theorem test_withFetchWord : cellAfter 10 (State.reset.withFetchWord 16 0xB050) = some (.word 0) ∧
    (State.reset.withFetchWord 16 0xB050).fetch = .instr 0xB050 := by decide

/-! ## The host interface -/

/-- E13, E1: start gives STATUS 0x0001, and an empty memory halts at once. -/
theorem test_start : (command .start State.reset).2.status = 0x0001 ∧
    haltAfter (command .start State.reset).2 = some (0, 0x0006) := by decide

/-- E5, E6: a data pair overwrites the program's cell, and the later of two pairs wins. -/
theorem test_load_data :
    ((command (.loadData [(0, 0x0408), (3, 0x1111), (3, 0x2222)]) (command (.loadProgram [0x0428]) State.reset).2).2.mem) =
      [(0, 0x0408), (3, 0x2222)] := by decide

/-- E8: read_results while RUNNING is refused. -/
theorem test_refused_while_running :
    command .readResults (core .empty .empty .empty []) = (.refused .notAdmitted, core .empty .empty .empty []) := by decide

/-- Section 2.1: the text forms of 5 and 0x8000, and a string of 15 characters. -/
theorem test_text :
    textForm 5 = ['0', '0', '0', '0', '0', '0', '0', '0', '0', '0', '0', '0', '0', '1', '0', '1'] ∧
    wordOfText ['1', '0', '0', '0', '0', '0', '0', '0', '0', '0', '0', '0', '0', '0', '0', '0'] = some 0x8000 ∧
    wordOfText ['0', '0', '0', '0', '0', '0', '0', '0', '0', '0', '0', '0', '0', '1', '0'] = none := by decide

/-- The model's choice of notes/assumptions/18.md: a malformed string refuses the command beyond the 40th too, where a
well-formed one is ignored. -/
theorem test_string_41 :
    (request (.loadProgram (List.replicate 40 (textForm 0) ++ [['x']])) State.reset).1 = .refused .malformedWord ∧
    (request (.loadProgram (List.replicate 40 (textForm 0) ++ [textForm 1])) State.reset).1 = .done := by decide

/-- Rule R194: 4 digits, the most significant first; E6 through the adapter, and a 5-digit address. -/
theorem test_text_address :
    addressText 3 = ['0', '0', '1', '1'] ∧ addressOfText ['1', '0', '0', '0'] = some 8 ∧
    addressOfText ['0', '1', '0', '0', '0'] = none ∧
    (request (.loadData [(['0', '0', '1', '1'], textForm 0x1111), (['0', '0', '1', '1'], textForm 0x2222)])
      (command (.loadProgram []) State.reset).2).2.mem = [(3, 0x2222)] := by decide

/-- Rule R37: the valid bit, then the 16 data bits; a cell with valid = 0 is EMPTY whatever its data bits. -/
theorem test_cell_bits : cellBits 0 (.word 0x8001) = 0b11000000000000001#17 ∧
    CellBits.cell (0b01111111111111111#17) = .empty ∧ CellBits.value (0b01111111111111111#17) = 0 := by decide

/-! ## Witnesses: what the statements assume can be met, at the ends of the ranges -/

/-- A halted core at pc = 0, after EMPTY_CELL. -/
def haltedCore : State :=
  { State.reset with run := .halted, status := 0x0006 }

/-- A LOAD state in which a program has been loaded. -/
def loadedCore : State :=
  (command (.loadProgram []) State.reset).2

theorem witness_DecodeEncodeRoundTrip : (Instr.sub .r7 (.reg 15) .r0).wellFormed = true ∧
    (Instr.load .r7 15 ⟨true, 7⟩).wellFormed = true := by decide
theorem witness_EncodingFormulas : (0 < 16 ∧ 15 < 16) ∧
    (Instr.add .r1 (.imm 15) .r2, 0) ∈ (aluDefined .r1 (.imm 15) .r2 ++ aluNoops .r1 (.imm 15) .r2).zipIdx ∧
    (Instr.nopa15 .r1 (.reg 0) .r2, 15) ∈ (aluDefined .r1 (.reg 0) .r2 ++ aluNoops .r1 (.reg 0) .r2).zipIdx := by decide
theorem witness_DataAddressAlwaysValid : decode 0xA8F8 = .load .r1 15 .zero ∧ decode 0xB000 = .store .r0 0 .zero := by decide
/-- The match values under the mask, and the operand ranges, of AddRule, SubRule, AndRule, OrRule and XorRule. -/
theorem witness_AluRule : (0x07FF#16 &&& 0xF800#16 = 0x0000#16) ∧ (0x0FFF#16 &&& 0xF800#16 = 0x0800#16) ∧
    (0x17FF#16 &&& 0xF800#16 = 0x1000#16) ∧ (0x1FFF#16 &&& 0xF800#16 = 0x1800#16) ∧
    (0x27FF#16 &&& 0xF800#16 = 0x2000#16) ∧ 15 < 16 ∧ (8 ≤ 8 ∧ 8 < 16) ∧ (8 ≤ 15 ∧ 15 < 16) := by decide
theorem witness_NegativeDifferencePolicy : (0 < 65536 ∧ 65535 < 65536 ∧ 0 < 65535) ∧ (65535 < 65536 ∧ 65535 ≤ 65535) := by decide
theorem witness_AluNoopRule : Instr.nopa15 .r1 (.imm 15) .r3 ∈ aluNoops .r1 (.imm 15) .r3 ∧
    Instr.nopa5 .r1 (.reg Reg.r7.index) .r3 ∈ aluNoops .r1 (.reg Reg.r7.index) .r3 ∧
    (Instr.nopa9 .r1 (.reg 8) .r3 ∈ aluNoops .r1 (.reg 8) .r3 ∧ 8 ≤ 8 ∧ 15 < 16) ∧
    (0x7FFF#16 &&& 0xF800#16 = 0x7800#16) ∧ (0x2800#16 &&& 0xF800#16 = 0x2800#16) := by decide
theorem witness_AluDefinedFrame : Instr.xor .r1 (.reg 2) .r3 ∈ aluDefined .r1 (.reg 2) .r3 ∧
    (nextOf (exec (.xor .r1 (.reg 2) .r3) State.reset)).isSome = true ∧
    (nextOf (exec (.xor .r1 (.reg 8) .r3) State.reset)).isSome = true := by decide
theorem witness_NoopFrame : Instr.nopa5 .r1 (.reg 8) .r3 ∈ aluNoops .r1 (.reg 8) .r3 ∧
    (nextOf (exec (.nopa5 .r1 (.reg 8) .r3) State.reset)).isSome = true ∧
    Instr.nopd15 .r1 15 .zero ∈ dtNoops .r1 15 .zero ∧
    (nextOf (exec (.nopd15 .r1 15 .zero) State.reset)).isSome = true := by decide
theorem witness_PseudoInstructionEffects : 0 < 16 ∧ 15 < 16 ∧
    (Pseudo.mov .r1 .r2).expand = [.or .r1 (.reg 2) .r2] := by decide
theorem witness_LoadRule : (0xAFFF#16 &&& 0xF800#16 = 0xA800#16) ∧ 15 < 16 ∧ State.reset.mem.read 15 = .empty := by decide
theorem witness_StoreRule : (0xB7FF#16 &&& 0xF800#16 = 0xB000#16) ∧ 15 < 16 := by decide
theorem witness_StoreEmptyHaltsLater :
    let s := core .empty .empty .empty [(9, 0x1111)]
    let t := { s with mem := [], pc := 1 }
    let u := { core .empty .empty .empty [] with pc := 9 }
    9 < 16 ∧ s.regs.get .r4 = .empty ∧ nextOf (exec (.store .r4 9 .zero) s) = some t ∧
      u.mem.read 9 = t.mem.read 9 ∧ u.pc.toNat = 9 ∧ u.run = .running := by decide
theorem witness_DtNoopRule : Instr.nopd0 .r7 15 ⟨true, 7⟩ ∈ dtNoops .r7 15 ⟨true, 7⟩ ∧
    (0xFFFF#16 &&& 0xF800#16 = 0xF800#16) ∧ (0x87FF#16 &&& 0xF800#16 = 0x8000#16) := by decide
theorem witness_LoadStoreFrame : (nextOf (exec (.load .r1 15 .zero) State.reset)).isSome = true ∧
    (nextOf (exec (.store .r1 15 .zero) State.reset)).isSome = true := by decide
theorem witness_DataTransferNeverFaults : (0xA800#16).getLsbD 15 = true := by decide
theorem witness_LoadAfterStore : 15 < 16 := by decide
theorem witness_IgnoredFieldsDoNotMatter :
    ((0xAE3F#16).getLsbD 15 = true ∧ (0xAE3F#16).extractLsb' 11 5 = (0xAA38#16).extractLsb' 11 5 ∧
      (0xAE3F#16).extractLsb' 3 7 = (0xAA38#16).extractLsb' 3 7) ∧
    ((0x2893#16).getLsbD 15 = false ∧ 5 ≤ ((0x2893#16).extractLsb' 11 4).toNat ∧
      (0x2893#16).extractLsb' 10 6 = (0x2B93#16).extractLsb' 10 6 ∧
      (0x2893#16).extractLsb' 0 7 = (0x2B93#16).extractLsb' 0 7) := by decide
/-- For StepRunsDecodedInstruction and RegisterIndexFaultExactly: a word at the last cell. -/
theorem witness_word_at_pc :
    let s := { core .empty .empty .empty [(39, 0x00C3)] with pc := 39 }
    s.run = .running ∧ s.pc.toNat < 40 ∧ s.mem.read s.pc.toNat = .word 0x00C3#16 := by decide
theorem witness_faulting_word : faultingWord 0x00C3 ∧ ¬ faultingWord 0x04C3 :=
  ⟨⟨by decide, by decide, by decide⟩, fun h => absurd h.2.1 (by decide)⟩
theorem witness_EmptyCellHalt :
    let s := { core .empty .empty .empty [] with pc := 39 }
    s.run = .running ∧ s.pc.toNat < 40 ∧ s.mem.read s.pc.toNat = .empty := by decide
theorem witness_BoundHalt :
    let s := { core .empty .empty .empty [] with pc := 40 }
    s.run = .running ∧ 40 ≤ s.pc.toNat := by decide
theorem witness_NoStepIsNamed : State.reset.run = .load ∧ haltedCore.run = .halted := by decide
/-- For PcOnlyAdvances and RegistersWrittenOnlyByAluLoadAndReset: a step that writes R1. -/
theorem witness_step_writes :
    let s := core (.word 2) (.word 3) .empty [(0, 0x0093)]
    (nextOf (step s)).map (fun t => decide (t.regs.get .r1 ≠ s.regs.get .r1)) = some true ∧
      Request.plain .start ≠ .plain .reset := by decide
theorem witness_CellsFrom16AreFixed : 16 ≤ 16 ∧ 16 ≤ 39 := by decide
theorem witness_StoreSeenByFetch :
    let s := core (.word 0x0408) .empty .empty []
    let t := { s with mem := [(15, 0x0408)], pc := 1 }
    let u := { s with mem := [(15, 0x0408)], pc := 15 }
    nextOf (exec (.store .r2 15 .zero) s) = some t ∧ u.run = .running ∧ u.pc.toNat = 15 ∧
      u.mem.read 15 = t.mem.read 15 ∧ s.regs.get .r2 = .word 0x0408 ∧ s.regs.get .r3 = .empty := by decide
theorem witness_HaltedIsTerminal : haltedCore.run = .halted ∧ Request.plain .readPc ≠ .plain .reset := by decide
theorem witness_EveryRunEnds : (command .start State.reset).2.run = .running ∧ (command .start State.reset).2.pc = 0 := by decide
/-- For EmptyMemoryHaltsAtOnce, RunIsFunctionOfMemory, StartRule and ReachableStatesAreSound. -/
theorem witness_reachable_load : Reachable State.reset ∧ State.reset.run = .load ∧
    ∀ a, a < 40 → State.reset.mem.read a = .empty :=
  ⟨.reset, rfl, fun _ _ => rfl⟩
/-- For RunIsFunctionOfMemory: a second LOAD state, with the same memory and another past. -/
theorem witness_reachable_loaded : Reachable loadedCore ∧ loadedCore.run = .load ∧ loadedCore.mem = State.reset.mem ∧
    loadedCore ≠ State.reset :=
  ⟨.request (.plain (.loadProgram [])) .reset, by decide, by decide, by decide⟩
/-- For ThreeWaysToHalt: reset, start and one step. -/
theorem witness_reachable_halted : ∃ s, Reachable s ∧ s.run = .halted :=
  ⟨(State.reset.start).halt .emptyCell,
    .step (s := State.reset.start) (.request (.plain .start) .reset) rfl, rfl⟩

/-- A RUNNING core whose 40 cells all hold NOP, at address `p`. -/
def fullCore (p : Nat) : State :=
  { State.reset with
    mem := (List.range 40).map fun a => (a, 0x7800#16)
    pc := BitVec.ofNat 6 p
    run := .running
    status := 0x0001 }

theorem fullCore_reads : ∀ p ∈ List.range 40, (fullCore p).mem.read p = .word 0x7800#16 := by decide

theorem fullCore_step (p : Nat) (h : p < 40) : step (fullCore p) = .next (fullCore (p + 1)) := by
  have hp : (fullCore p).pc.toNat = p := (BitVec.toNat_ofNat p 6).trans (Nat.mod_eq_of_lt (by omega))
  have hn : (fullCore p).advancePc = fullCore (p + 1) := by
    simp only [State.advancePc, fullCore, BitVec.ofNat_add]
    rfl
  have hf : (fullCore p).fetch = .instr 0x7800#16 :=
    Laws.fetch_instr (by rw [hp]; exact h) (by rw [hp]; exact fullCore_reads p (List.mem_range.2 h))
  simp only [step, show (fullCore p).run = .running from rfl, hf,
    show decode 0x7800#16 = .nopa15 .r0 (.reg 0) .r0 by decide]
  exact congrArg Host.Outcome.next hn

theorem fullCore_run (k p : Nat) (h : p + k ≤ 40) : runFor k (fullCore p) = fullCore (p + k) := by
  induction k generalizing p with
  | zero => rfl
  | succ k ih =>
    simp only [runFor, fullCore_step p (by omega)]
    rw [ih (p + 1) (by omega), show p + 1 + k = p + (k + 1) by omega]

theorem witness_FullMemoryHaltsAtBound : (fullCore 0).run = .running ∧ (fullCore 0).pc = 0 ∧
    ∀ k, k < 40 → ∃ w, (runFor k (fullCore 0)).mem.read k = .word w ∧ ¬ faultingWord w := by
  refine ⟨rfl, rfl, fun k hk => ⟨0x7800#16, ?_, fun h => absurd h.2.2 (by decide)⟩⟩
  rw [fullCore_run k 0 (by omega), Nat.zero_add]
  exact fullCore_reads k (List.mem_range.2 hk)

/-- For StepKeepsInvariant and RequestKeepsInvariant: the started state meets the invariant, and has a next state. -/
theorem witness_StepKeepsInvariant : State.reset.start.Inv ∧ (nextOf (step State.reset.start)).isSome = true :=
  ⟨⟨by decide, by decide, ⟨by decide, by decide, by decide, by decide, by decide⟩,
    ⟨fun h => absurd h (by decide), fun h => absurd h (by decide), fun h => absurd h (by decide)⟩,
    fun h => absurd h (by decide)⟩, by decide⟩
theorem witness_StatusWordsAfterHalt : State.reset.start.status = 0x0001#16 := by decide
theorem witness_ResetInAnyState : haltedCore.run = .halted ∧ Command.readPc ≠ .reset := by decide
theorem witness_CommandsNotAdmittedAreRefused : (core .empty .empty .empty []).run = .running ∧
    Command.start ≠ .reset ∧ Command.start ≠ .readStatus ∧ haltedCore.run = .halted ∧ State.reset.run = .load := by decide
theorem witness_LoadDataWaitsForLoadProgram : State.reset.run = .load ∧ State.reset.programLoaded = false ∧
    ∀ p ∈ [(15, 0x0001#16)], p.1 < 16 := by decide
theorem witness_ProgramLoaderRule : State.reset.run = .load ∧ 0 < [0x0428#16].length ∧ 0 < 40 ∧
    min [0x0428#16].length 40 ≤ 1 := by decide
theorem witness_DataLoaderRule : loadedCore.run = .load ∧ loadedCore.programLoaded = true ∧
    (∀ p ∈ [(3, 0x1111#16), (3, 0x2222#16)], p.1 < 16) ∧
    [(3, 0x1111#16), (3, 0x2222#16)] = [(3, 0x1111#16)] ++ (3, 0x2222#16) :: [] ∧
    (∀ p ∈ [(3, 0x1111#16), (3, 0x2222#16)], p.1 ≠ 4) ∧ 16 ≤ 16 := by decide
theorem witness_DataAddressOutOfRangeRefused : loadedCore.run = .load ∧ loadedCore.programLoaded = true ∧
    (16, 0x0001#16) ∈ [(3, 0x1111#16), (16, 0x0001#16)] ∧ 16 ≤ 16 := by decide
theorem witness_MalformedStringsRefused : malformed 16 ['0'] ∧ malformed 4 ['0', '0', 'x', '1'] ∧
    State.reset.run = .load ∧ loadedCore.run = .load ∧ loadedCore.programLoaded = true :=
  ⟨.inl (by decide), .inr ⟨'x', by decide, by decide, by decide⟩, rfl, by decide, by decide⟩
theorem witness_CodecLaws : 65535 < 65536 := by decide
theorem witness_ReadoutRule : haltedCore.run = .halted := by decide
theorem witness_BlocksRefineStep : (nextOf (step (core .empty .empty .empty [(0, 0x0428)]))).isSome = true ∧
    State.reset.run ≠ .running := by decide
theorem witness_BlocksStartAndReset : State.reset.run = .load ∧ haltedCore.run ≠ .load := by decide

end Sys2Proof.Tests
end

