-- ==== Sys2Proof/Proofs/TextForm.lean ====
section
/-! PROOFS. The word codec and the text form at the host interface (rules R15 to R18, R194, R196): a result's cell is
its value modulo 2^16, digits read back as the bits they stand for, and text is loaded as those values. -/

namespace Sys2Proof.Proofs

open Sys2Proof.Machine Sys2Proof.Laws

/-! ## The codec -/

theorem enc_ne_empty (v : Int) : enc v ≠ .empty :=
  Cell.noConfusion

/-- Rule R15 for every integer: the value of a result's cell is the result modulo 2^16. -/
theorem val_enc (v : Int) : (val (enc v) : Int) = v % 65536 := by
  have hmod : 0 ≤ v % 65536 := Int.emod_nonneg v (by decide)
  calc (val (enc v) : Int)
      = ((v % 65536).toNat : Int) := congrArg Nat.cast (BitVec.toNat_ofInt v)
    _ = v % 65536 := Int.toNat_of_nonneg hmod

/-- Two results are the same cell exactly when they agree modulo 2^16. -/
theorem enc_eq_enc_iff (u v : Int) : enc u = enc v ↔ u % 65536 = v % 65536 := by
  rw [← val_enc, ← val_enc]
  constructor
  · exact fun h => congrArg (fun c => (val c : Int)) h
  · exact fun h => congrArg Cell.word (BitVec.eq_of_toNat_eq (Int.ofNat_inj.1 h))

/-- Settles O57: the three laws of R17 are instances of R15. -/
theorem codecLaws : Obligations.CodecLaws := by
  refine ⟨fun v hv => ?_, ?_, ?_, fun v => ⟨enc_ne_empty v, val_enc v⟩⟩
  · have := val_enc v
    omega
  · exact (enc_eq_enc_iff 65536 0).2 (by decide)
  · exact (enc_eq_enc_iff 65537 1).2 (by decide)

/-! ## Digits -/

@[simp] theorem length_digitsText (n : Nat) (x : BitVec n) : (digitsText n x).length = n := by
  simp [digitsText]

theorem getElem?_digitsText {n : Nat} (x : BitVec n) {p : Nat} (hp : p < n) :
    (digitsText n x)[p]? = some (if x.getLsbD (n - 1 - p) then '1' else '0') := by
  simp [digitsText, hp]

/-- The first digit is the top bit, the others are the digits of the bits below it. -/
theorem digitsText_cons {n : Nat} (b : Bool) (x : BitVec n) :
    digitsText (n + 1) (BitVec.cons b x) = (if b then '1' else '0') :: digitsText n x := by
  have htop : (BitVec.cons b x).getLsbD (n + 1 - 1 - 0) = b := by
    rw [BitVec.getLsbD_cons]
    exact if_pos rfl
  have hrest : ∀ p < n, (BitVec.cons b x).getLsbD (n + 1 - 1 - (p + 1)) = x.getLsbD (n - 1 - p) := by
    intro p hp
    have hidx : n + 1 - 1 - (p + 1) = n - 1 - p := by omega
    rw [BitVec.getLsbD_cons, hidx]
    exact if_neg (by omega)
  unfold digitsText
  rw [List.range_succ_eq_map, List.map_cons, List.map_map, htop]
  refine congrArg _ (List.map_congr_left fun p hp => ?_)
  rw [Function.comp_apply, Nat.succ_eq_add_one, hrest p (List.mem_range.1 hp)]

theorem digitValue_ofBool (b : Bool) : digitValue (if b then '1' else '0') = some b.toNat := by
  cases b <;> rfl

/-- Reading the digits of `x` after digits of value `acc` gives the number with `acc` above the bits of `x`. -/
theorem digitsValue_digitsText {n : Nat} (x : BitVec n) (acc : Nat) :
    digitsValue acc (digitsText n x) = some (acc * 2 ^ n + x.toNat) := by
  induction n generalizing acc with
  | zero => simp [digitsText, digitsValue, BitVec.of_length_zero]
  | succ n ih =>
    rw [← BitVec.cons_msb_setWidth x]
    generalize x.msb = b
    generalize x.setWidth n = y
    rw [digitsText_cons, digitsValue, digitValue_ofBool, BitVec.toNat_cons']
    refine (ih y (2 * acc + b.toNat)).trans (congrArg some ?_)
    rw [Nat.shiftLeft_eq]
    ring

theorem fieldOfText_digitsText {n : Nat} (x : BitVec n) : fieldOfText n (digitsText n x) = some x.toNat := by
  rw [fieldOfText, if_pos (length_digitsText n x), digitsValue_digitsText, Nat.zero_mul, Nat.zero_add]

/-- The host adapter reads a word's text form back as the word (rules R10, R18). -/
@[simp] theorem wordOfText_textForm (w : Word) : wordOfText (textForm w) = some w := by
  rw [wordOfText, textForm, fieldOfText_digitsText, Option.map_some, BitVec.ofNat_toNat, BitVec.setWidth_eq]

/-- The host adapter reads an address's digits back as the address (rules R16, R194). -/
@[simp] theorem addressOfText_addressText (a : BitVec 4) : addressOfText (addressText a) = some a.toNat :=
  fieldOfText_digitsText a

/-- Settles O55: length, digits and reading back, at the widths 16 and 4. -/
theorem textFormRule : Obligations.TextFormRule :=
  ⟨fun w => ⟨length_digitsText 16 w, fun _ hp => getElem?_digitsText w hp, wordOfText_textForm w⟩,
    fun a => ⟨length_digitsText 4 a, fun _ hp => getElem?_digitsText a hp, addressOfText_addressText a⟩⟩

/-! ## Loading text -/

theorem wordsOfText_map_textForm (ws : List Word) : wordsOfText (ws.map textForm) = some ws := by
  induction ws with
  | nil => rfl
  | cons w ws ih => simp [wordsOfText, ih]

theorem pairsOfText_map_text (ps : List (BitVec 4 × Word)) :
    pairsOfText (ps.map fun p => (addressText p.1, textForm p.2)) = some (ps.map fun p => (p.1.toNat, p.2)) := by
  induction ps with
  | nil => rfl
  | cons p ps ih => simp [pairsOfText, ih]

/-- A request that the host adapter converts is answered as its command (rule R196). -/
theorem request_of_toCommand {r : Request} {c : Command} (h : r.toCommand = some c) (s : State) :
    request r s = command c s := by
  rw [request, h]

/-- Settles O56: the adapter converts the text forms to the words and pairs they stand for. -/
theorem textProgramLoads : Obligations.TextProgramLoads := by
  refine ⟨fun s ws => request_of_toCommand ?_ s, fun s ps => request_of_toCommand ?_ s⟩
  · exact congrArg (Option.map Command.loadProgram) (wordsOfText_map_textForm ws)
  · exact congrArg (Option.map Command.loadData) (pairsOfText_map_text ps)

end Sys2Proof.Proofs
end

section
/-! PROOFS. What a fetched word does, said once for all 65536 words, and from it the machine's invariant (rules R40 to
R47, R142, R143, R165, R170), the writers of the registers (rules R34, R189), and the agreement of the step with the
seven blocks (rules R37, R77, R111, R134, R155). -/

namespace Sys2Proof.Proofs

open Sys2Proof.Machine Sys2Proof.Laws

/-! ## What a decoded word does -/

/-- What the ALU does with its sources under each opcode: the meanings of rules R102 to R110 by the opcode field. -/
def aluOp (opcode : BitVec 4) (x y : Nat) : AluEffect :=
  if opcode = 0 then .write (enc (x + y))
  else if opcode = 1 then subtract Config.subNegPolicy x y
  else if opcode = 2 then .write (enc (x &&& y : Nat))
  else if opcode = 3 then .write (enc (x ||| y : Nat))
  else if opcode = 4 then .write (enc (x ^^^ y : Nat))
  else .nothing

/-- An opcode field is one of 16 numbers. -/
theorem exists_opcode_eq_ofNat (o : BitVec 4) : ∃ n < 16, o = BitVec.ofNat 4 n :=
  ⟨o.toNat, o.isLt, (BitVec.ofNat_toNat 4 o).symm⟩

theorem exec_decodeAlu (o : BitVec 4) (d : Reg) (a : SourceA) (b : Reg) (s : State) :
    exec (decodeAlu o d a b) s = aluInstr (aluOp o) d a b s := by
  obtain ⟨n, hn, rfl⟩ := exists_opcode_eq_ofNat o
  interval_cases n <;> rfl

theorem exec_decodeDt (o : BitVec 4) (r : Reg) (a : Nat) (x : Spare) (s : State) :
    exec (decodeDt o r a x) s =
      if o = 5 then execLoad r a x s else if o = 6 then execStore r a x s else .next s.advancePc := by
  obtain ⟨n, hn, rfl⟩ := exists_opcode_eq_ofNat o
  interval_cases n <;> rfl

/-- The opcodes 0 to 4 write a result, and SUB under the default policy never stops the run (rule R105). -/
theorem aluOp_of_le {o : BitVec 4} (ho : o.toNat ≤ 4) (x y : Nat) : ∃ c, aluOp o x y = .write c := by
  obtain ⟨n, hn, rfl⟩ := exists_opcode_eq_ofNat o
  rw [toNat_ofNat4 hn] at ho
  interval_cases n
  · exact ⟨_, rfl⟩
  · exact ⟨_, subtract_wrap x y⟩
  · exact ⟨_, rfl⟩
  · exact ⟨_, rfl⟩
  · exact ⟨_, rfl⟩

/-- The opcodes 5 to 15 write nothing (rule R110). -/
theorem aluOp_of_gt {o : BitVec 4} (ho : 4 < o.toNat) (x y : Nat) : aluOp o x y = .nothing := by
  obtain ⟨n, hn, rfl⟩ := exists_opcode_eq_ofNat o
  rw [toNat_ofNat4 hn] at ho
  interval_cases n <;> rfl

theorem decodeAlu_mem_aluDefined {o : BitVec 4} (ho : o.toNat ≤ 4) (d : Reg) (a : SourceA) (b : Reg) :
    decodeAlu o d a b ∈ aluDefined d a b := by
  obtain ⟨n, hn, rfl⟩ := exists_opcode_eq_ofNat o
  rw [toNat_ofNat4 hn] at ho
  interval_cases n <;> simp [decodeAlu, aluDefined]

theorem decode_alu {w : Word} (ht : w.getLsbD 15 = false) :
    decode w = decodeAlu (fieldsOf w).opcode (Reg.ofBits (fieldsOf w).op1) (wordSourceA w)
      (Reg.ofBits (fieldsOf w).op3) :=
  if_neg (Bool.eq_false_iff.1 ht)

theorem decode_dt {w : Word} (ht : w.getLsbD 15 = true) :
    decode w = decodeDt (fieldsOf w).opcode (Reg.ofBits (fieldsOf w).op1) (fieldsOf w).op2.toNat
      ⟨(fieldsOf w).i, (fieldsOf w).op3⟩ :=
  if_pos ht

/-- The state with one memory cell overwritten, which is all that STORE does beside the pc (rule R128). -/
def storeCell (s : State) (a : Nat) (c : Cell) : State :=
  { s with mem := s.mem.write a c }

@[simp] theorem storeCell_mem (s : State) (a : Nat) (c : Cell) : (storeCell s a c).mem = s.mem.write a c := rfl
@[simp] theorem storeCell_regs (s : State) (a : Nat) (c : Cell) : (storeCell s a c).regs = s.regs := rfl
@[simp] theorem storeCell_pc (s : State) (a : Nat) (c : Cell) : (storeCell s a c).pc = s.pc := rfl
@[simp] theorem storeCell_run (s : State) (a : Nat) (c : Cell) : (storeCell s a c).run = s.run := rfl
@[simp] theorem storeCell_status (s : State) (a : Nat) (c : Cell) : (storeCell s a c).status = s.status := rfl

/-- The data-transfer words, by their opcode: LOAD, STORE, and the no-ops (rules R126, R128, R130). -/
theorem exec_decode_dt {w : Word} (ht : w.getLsbD 15 = true) (s : State) :
    exec (decode w) s =
      if (fieldsOf w).opcode = 5 then
        .next (s.writeReg (Reg.ofBits (fieldsOf w).op1) (s.mem.read (fieldsOf w).op2.toNat)).advancePc
      else if (fieldsOf w).opcode = 6 then
        .next (storeCell s (fieldsOf w).op2.toNat (s.regs.get (Reg.ofBits (fieldsOf w).op1))).advancePc
      else .next s.advancePc := by
  have ha : (fieldsOf w).op2.toNat < 40 := by omega
  rw [decode_dt ht, exec_decodeDt, execLoad_next _ _ _ ha, execStore_next _ _ _ ha]
  rfl

/-- A faulting word raises RegisterIndexFault with its operand2, under every opcode (rules R100, R170). -/
theorem exec_decode_faulting {w : Word} (h : faultingWord w) (s : State) :
    exec (decode w) s = .next (s.raiseRegisterIndexFault (w.extractLsb' 3 4)) := by
  obtain ⟨ht, hi, hidx⟩ := h
  have ha : wordSourceA w = .reg (w.extractLsb' 3 4).toNat := if_neg (Bool.eq_false_iff.1 hi)
  simp only [decode_alu ht, exec_decodeAlu, aluInstr, ha, aluOperands_bad hidx, BitVec.ofNat_toNat, BitVec.setWidth_eq]

/-- The register that a 4-bit index below 8 names is the one of its low 3 bits (rule R82). -/
theorem reg_ofIndex_lowBits {o : BitVec 4} (h : o.toNat < 8) :
    Reg.ofIndex o.toNat = some (Reg.ofBits (o.extractLsb' 0 3)) := by
  rw [reg_ofIndex_eq_some_iff, reg_index_ofBits, BitVec.extractLsb'_toNat, Nat.shiftRight_zero]
  exact (Nat.mod_eq_of_lt h).symm

/-- The value of sourceA of an ALU word that does not fault: the literal, or the register of operand2's low bits. -/
def sourceAValue (w : Word) (s : State) : Nat :=
  if (fieldsOf w).i then (fieldsOf w).op2.toNat
  else val (s.regs.get (Reg.ofBits ((fieldsOf w).op2.extractLsb' 0 3)))

theorem aluOperands_word {w : Word} (ht : w.getLsbD 15 = false) (hf : ¬ faultingWord w) (b : Reg) (s : State) :
    aluOperands (wordSourceA w) b s = .sources (sourceAValue w s) (val (s.regs.get b)) := by
  unfold wordSourceA sourceAValue
  cases hi : w.getLsbD 10 with
  | true => simp only [fieldsOf, hi, if_true, aluOperands_imm]
  | false =>
    have hlt : (w.extractLsb' 3 4).toNat < 8 := Nat.lt_of_not_le fun hle => hf ⟨ht, hi, hle⟩
    simp only [fieldsOf, hi, Bool.false_eq_true, if_false, aluOperands, reg_ofIndex_lowBits hlt, readReg_eq]

/-- The ALU words that do not fault, by what their opcode does with the two values (rules R101, R110). -/
theorem exec_decode_alu {w : Word} (ht : w.getLsbD 15 = false) (hf : ¬ faultingWord w) (s : State) :
    (∀ c, aluOp (fieldsOf w).opcode (sourceAValue w s) (val (s.regs.get (Reg.ofBits (fieldsOf w).op3))) = .write c →
      exec (decode w) s = .next (s.writeReg (Reg.ofBits (fieldsOf w).op1) c).advancePc) ∧
    (4 < (fieldsOf w).opcode.toNat → exec (decode w) s = .next s.advancePc) := by
  have hsrc := aluOperands_word ht hf (Reg.ofBits (fieldsOf w).op3) s
  rw [decode_alu ht, exec_decodeAlu]
  constructor
  · intro c hc
    simp only [aluInstr, hsrc, hc]
  · intro hgt
    simp only [aluInstr, hsrc, aluOp_of_gt hgt]

/-- The words that rule R34 lets write register `r`: a defined ALU instruction or a LOAD with `r` as operand1. -/
def WritesRegister (w : Word) (r : Reg) : Prop :=
  (∃ a b, decode w ∈ aluDefined r a b) ∨ ∃ a x, decode w = .load r a x

theorem writesRegister_of_alu {w : Word} (ht : w.getLsbD 15 = false) (ho : (fieldsOf w).opcode.toNat ≤ 4) :
    WritesRegister w (Reg.ofBits (fieldsOf w).op1) :=
  .inl ⟨wordSourceA w, Reg.ofBits (fieldsOf w).op3, decode_alu ht ▸ decodeAlu_mem_aluDefined ho _ _ _⟩

theorem writesRegister_of_load {w : Word} (ht : w.getLsbD 15 = true) (ho : (fieldsOf w).opcode = 5) :
    WritesRegister w (Reg.ofBits (fieldsOf w).op1) :=
  .inr ⟨(fieldsOf w).op2.toNat, ⟨(fieldsOf w).i, (fieldsOf w).op3⟩, by rw [decode_dt ht, ho]; rfl⟩

/-- Everything a fetched word that does not fault can do: it completes, with one register written, one of the cells 0
to 15 written, or neither (rules R101, R110, R126 to R131). -/
theorem exec_decode_cases {w : Word} (hf : ¬ faultingWord w) (s : State) :
    (∃ r c, WritesRegister w r ∧ exec (decode w) s = .next (s.writeReg r c).advancePc) ∨
    (∃ a c, a < 16 ∧ exec (decode w) s = .next (storeCell s a c).advancePc) ∨
    exec (decode w) s = .next s.advancePc := by
  cases ht : w.getLsbD 15 with
  | true =>
    rw [exec_decode_dt ht]
    split
    · next ho => exact .inl ⟨_, _, writesRegister_of_load ht ho, rfl⟩
    split
    · exact .inr (.inl ⟨_, _, BitVec.isLt _, rfl⟩)
    · exact .inr (.inr rfl)
  | false =>
    obtain ⟨hwrite, hnop⟩ := exec_decode_alu ht hf s
    rcases Nat.lt_or_ge 4 (fieldsOf w).opcode.toNat with hgt | hle
    · exact .inr (.inr (hnop hgt))
    · obtain ⟨c, hc⟩ := aluOp_of_le hle _ _
      exact .inl ⟨_, c, writesRegister_of_alu ht hle, hwrite c hc⟩

/-- Everything a step with a next state can be, down to what its instruction does: the two normal halts, the exception,
or a completed instruction (rules R141 to R145, R170). -/
theorem step_word_cases {s t : State} (h : step s = .next t) :
    s.run = .running ∧
      ((40 ≤ s.pc.toNat ∧ t = s.halt .bound) ∨
       (s.pc.toNat < 40 ∧ s.mem.read s.pc.toNat = .empty ∧ t = s.halt .emptyCell) ∨
       (∃ w, s.pc.toNat < 40 ∧ s.mem.read s.pc.toNat = .word w ∧
         ((faultingWord w ∧ t = s.raiseRegisterIndexFault (w.extractLsb' 3 4)) ∨
          (∃ r c, WritesRegister w r ∧ t = (s.writeReg r c).advancePc) ∨
          (∃ a c, a < 16 ∧ t = (storeCell s a c).advancePc) ∨
          t = s.advancePc))) := by
  obtain ⟨hr, hbound | hempty | ⟨w, hlt, hw, he⟩⟩ := step_cases h
  · exact ⟨hr, .inl hbound⟩
  · exact ⟨hr, .inr (.inl hempty)⟩
  refine ⟨hr, .inr (.inr ⟨w, hlt, hw, ?_⟩)⟩
  by_cases hf : faultingWord w
  · cases he.symm.trans (exec_decode_faulting hf s)
    exact .inl ⟨hf, rfl⟩
  rcases exec_decode_cases hf s with ⟨r, c, hwr, hx⟩ | ⟨a, c, ha, hx⟩ | hx
  · cases he.symm.trans hx
    exact .inr (.inl ⟨r, c, hwr, rfl⟩)
  · cases he.symm.trans hx
    exact .inr (.inr (.inl ⟨a, c, ha, rfl⟩))
  · cases he.symm.trans hx
    exact .inr (.inr (.inr rfl))

/-! ## The invariant -/

theorem inv_reset : State.reset.Inv where
  mem_wf := reset_mem_wf
  pc_range := by decide
  status_ok := ⟨by decide, by decide, by decide, by decide, by decide⟩
  halt_ok := ⟨by decide, by decide, fun h => absurd h (by decide)⟩
  load_regs := fun _ => ⟨rfl, rfl⟩

/-- While the core is not halted, HALT_REASON is 00, and BADIDX is 0 (rule R45). -/
theorem reason_of_not_halted {s : State} (hs : s.StatusOk) (hr : s.run ≠ .halted) :
    statusHaltReason s.status = HaltReason.none.code :=
  hs.reason_iff.2 hr

theorem badIdx_of_not_halted {s : State} (hs : s.StatusOk) (hr : s.run ≠ .halted) : statusBadIdx s.status = 0 := by
  apply hs.badIdx_zero
  rw [reason_of_not_halted hs hr]
  decide

/-- Nothing is asked of where a core that is not halted stopped. -/
theorem haltOk_of_not_halted {s : State} (hs : s.StatusOk) (hr : s.run ≠ .halted) : s.HaltOk := by
  have hnone := reason_of_not_halted hs hr
  refine ⟨fun h => ?_, fun h => ?_, fun h => ?_⟩ <;>
    exact absurd (reasonCode_injective (hnone.symm.trans h)) (by decide)

/-- STATUS is sound by the sequencer state and STATUS alone. -/
theorem statusOk_congr {s t : State} (hs : s.StatusOk) (hrun : t.run = s.run) (hstatus : t.status = s.status) :
    t.StatusOk := by
  constructor
  · rw [hstatus, hrun, hs.run_mirrors]
  · rw [hstatus, hs.reserved_zero]
  · rw [hstatus, hrun, hs.reason_iff]
  · rw [hstatus]
    exact hs.badIdx_fault
  · rw [hstatus]
    exact hs.badIdx_zero

/-- A normal halt leaves STATUS sound: BADIDX was 0 and stays (rules R142, R143). -/
theorem statusOk_halt {s : State} {reason : HaltReason} (hs : s.StatusOk) (hr : s.run ≠ .halted)
    (hnone : reason ≠ .none) (hfault : reason ≠ .fault) : (s.halt reason).StatusOk where
  run_mirrors := by simp
  reserved_zero := by simp [hs.reserved_zero]
  reason_iff := by
    simp only [halt_status, halt_run, statusHaltReason_setHaltReason]
    exact iff_of_false (mt reasonCode_injective hnone) (not_not_intro rfl)
  badIdx_fault h := by
    rw [halt_status, statusHaltReason_setHaltReason] at h
    exact absurd (reasonCode_injective h) hfault
  badIdx_zero _ := by simp [badIdx_of_not_halted hs hr]

/-- The fault leaves STATUS sound where its index names no register (rule R171). -/
theorem statusOk_raise {s : State} {index : BitVec 4} (hs : s.StatusOk) (hidx : 8 ≤ index.toNat) :
    (s.raiseRegisterIndexFault index).StatusOk where
  run_mirrors := by simp
  reserved_zero := by simp [hs.reserved_zero]
  reason_iff := by
    simp only [raise_status, raise_run, halt_status, statusHaltReason_setBadIdx, statusHaltReason_setHaltReason]
    exact iff_of_false (by decide) (not_not_intro rfl)
  badIdx_fault _ := by simpa using hidx
  badIdx_zero h := absurd (by simp) h

theorem statusOk_start {s : State} (hs : s.StatusOk) (hr : s.run ≠ .halted) : s.start.StatusOk where
  run_mirrors := by simp
  reserved_zero := by simp [hs.reserved_zero]
  reason_iff := by simp [reason_of_not_halted hs hr]
  badIdx_fault h := by simpa using hs.badIdx_fault (by simpa using h)
  badIdx_zero _ := by simp [badIdx_of_not_halted hs hr]

/-- Below the bound the pc does not wrap (rule R147). -/
theorem toNat_pc_succ {pc : BitVec 6} (h : pc.toNat < 40) : (pc + 1).toNat = pc.toNat + 1 := by
  bv_omega

/-- A completed instruction keeps the invariant: it leaves the sequencer and STATUS, moves the pc below the bound by
one, and leaves the memory canonical (rules R145, R147). -/
theorem inv_of_completed {s t : State} (hs : s.Inv) (hr : s.run = .running) (hpc : s.pc.toNat < 40)
    (hrun : t.run = s.run) (hstatus : t.status = s.status) (hnext : t.pc = s.pc + 1) (hmem : t.mem.wf) : t.Inv := by
  have hok : t.StatusOk := statusOk_congr hs.status_ok hrun hstatus
  have hrunning : t.run = .running := hrun.trans hr
  refine ⟨hmem, ?_, hok, haltOk_of_not_halted hok (by simp [hrunning]), by simp [hrunning]⟩
  rw [hnext, toNat_pc_succ hpc]
  omega

/-- A halt at the bound keeps the invariant: the pc is in range, so it is 40 (rule R143). -/
theorem inv_halt_bound {s : State} (hs : s.Inv) (hr : s.run = .running) (hpc : 40 ≤ s.pc.toNat) :
    (s.halt .bound).Inv where
  mem_wf := hs.mem_wf
  pc_range := hs.pc_range
  status_ok := statusOk_halt hs.status_ok (by simp [hr]) (by decide) (by decide)
  halt_ok := by
    refine ⟨fun h => ?_, fun _ => le_antisymm hs.pc_range hpc, fun h => ?_⟩ <;>
      exact absurd (reasonCode_injective ((statusHaltReason_setHaltReason ..).symm.trans h)) (by decide)
  load_regs h := absurd h (by simp)

/-- A halt at an EMPTY cell keeps the invariant: the pc stays at that cell (rule R142). -/
theorem inv_halt_emptyCell {s : State} (hs : s.Inv) (hr : s.run = .running) (hpc : s.pc.toNat < 40)
    (hcell : s.mem.read s.pc.toNat = .empty) : (s.halt .emptyCell).Inv where
  mem_wf := hs.mem_wf
  pc_range := hs.pc_range
  status_ok := statusOk_halt hs.status_ok (by simp [hr]) (by decide) (by decide)
  halt_ok := by
    refine ⟨fun _ => ⟨hpc, hcell⟩, fun h => ?_, fun h => ?_⟩ <;>
      exact absurd (reasonCode_injective ((statusHaltReason_setHaltReason ..).symm.trans h)) (by decide)
  load_regs h := absurd h (by simp)

/-- The fault keeps the invariant: the pc stays at the faulting word, whose operand2 BADIDX records (rules R170,
R171). -/
theorem inv_raise {s : State} {w : Word} (hs : s.Inv) (hcell : s.mem.read s.pc.toNat = .word w)
    (hf : faultingWord w) : (s.raiseRegisterIndexFault (w.extractLsb' 3 4)).Inv where
  mem_wf := hs.mem_wf
  pc_range := hs.pc_range
  status_ok :=
    have ⟨_, _, hidx⟩ := hf
    statusOk_raise hs.status_ok hidx
  halt_ok := by
    have hreason : statusHaltReason (s.raiseRegisterIndexFault (w.extractLsb' 3 4)).status = HaltReason.fault.code := by
      simp
    refine ⟨fun h => ?_, fun h => ?_, fun _ => ⟨w, hcell, hf, by simp⟩⟩ <;>
      exact absurd (reasonCode_injective (hreason.symm.trans h)) (by decide)
  load_regs h := absurd h (by simp)

/-- Settles O41, case by case over what a step can do. -/
theorem stepKeepsInvariant : Obligations.StepKeepsInvariant := by
  intro s t hs h
  obtain ⟨hr, ⟨hpc, rfl⟩ | ⟨hpc, hcell, rfl⟩ | ⟨w, hpc, hcell, hword⟩⟩ := step_word_cases h
  · exact inv_halt_bound hs hr hpc
  · exact inv_halt_emptyCell hs hr hpc hcell
  rcases hword with ⟨hf, rfl⟩ | ⟨r, c, -, rfl⟩ | ⟨a, c, ha, rfl⟩ | rfl
  · exact inv_raise hs hcell hf
  · exact inv_of_completed hs hr hpc rfl rfl rfl hs.mem_wf
  · exact inv_of_completed hs hr hpc rfl rfl rfl (write_wf hs.mem_wf (by omega) c)
  · exact inv_of_completed hs hr hpc rfl rfl rfl hs.mem_wf

/-! ## The host's requests -/

/-- A load into a core in LOAD keeps the invariant where it leaves the memory canonical (rules R189, R192, R194). -/
theorem inv_of_loaded {s t : State} (hs : s.Inv) (hr : s.run = .load) (hrun : t.run = s.run)
    (hstatus : t.status = s.status) (hpc : t.pc = s.pc) (hregs : t.regs = s.regs) (hmem : t.mem.wf) : t.Inv := by
  have hok : t.StatusOk := statusOk_congr hs.status_ok hrun hstatus
  refine ⟨hmem, hpc ▸ hs.pc_range, hok, haltOk_of_not_halted hok (by simp [hrun, hr]), fun _ => ?_⟩
  rw [hregs, hpc]
  exact hs.load_regs hr

theorem inv_start {s : State} (hs : s.Inv) (hr : s.run = .load) : s.start.Inv where
  mem_wf := hs.mem_wf
  pc_range := by simp
  status_ok := statusOk_start hs.status_ok (by simp [hr])
  halt_ok := haltOk_of_not_halted (statusOk_start hs.status_ok (by simp [hr])) (by simp)
  load_regs h := absurd h (by simp)

/-- Everything the effect of a command can be: reset, a program load, a data load at cells the loader reaches, start,
or no change of state (rule R187). -/
theorem effect_cases (c : Command) (s : State) :
    (c = .reset ∧ (c.effect s).2 = State.reset) ∨
    (∃ ws, c = .loadProgram ws ∧ (c.effect s).2 = s.loadProgram ws) ∨
    (∃ ps, c = .loadData ps ∧ (∀ p ∈ ps, p.1 < 16) ∧ (c.effect s).2 = s.loadData ps) ∨
    (c = .start ∧ (c.effect s).2 = s.start) ∨
    (c.effect s).2 = s := by
  cases c with
  | reset => exact .inl ⟨rfl, rfl⟩
  | loadProgram ws => exact .inr (.inl ⟨ws, rfl, rfl⟩)
  | loadData ps =>
    by_cases hall : ps.all (fun p => p.1 < Config.dlReach) = true
    · refine .inr (.inr (.inl ⟨ps, rfl, fun p hp => of_decide_eq_true (List.all_eq_true.1 hall p hp), ?_⟩))
      simp only [Command.effect, hall, if_true]
    · refine .inr (.inr (.inr (.inr ?_)))
      simp only [Command.effect, hall, if_false, Bool.false_eq_true]
  | start => exact .inr (.inr (.inr (.inl ⟨rfl, rfl⟩)))
  | readStatus => exact .inr (.inr (.inr (.inr rfl)))
  | readResults => exact .inr (.inr (.inr (.inr rfl)))
  | readMemory a => exact .inr (.inr (.inr (.inr rfl)))
  | readPc => exact .inr (.inr (.inr (.inr rfl)))

theorem run_of_admitted_loadProgram {s : State} {ws : List Word}
    (h : (Command.loadProgram ws).admitted s = true) : s.run = .load := by
  simpa [Command.admitted] using h

theorem run_of_admitted_loadData {s : State} {ps : List (Nat × Word)}
    (h : (Command.loadData ps).admitted s = true) : s.run = .load := by
  simp only [Command.admitted, Bool.and_eq_true, beq_iff_eq] at h
  exact h.1

theorem run_of_admitted_start {s : State} (h : Command.start.admitted s = true) : s.run = .load := by
  simpa [Command.admitted] using h

/-- An admitted command keeps the invariant (rules R185 to R195). -/
theorem inv_effect {c : Command} {s : State} (hs : s.Inv) (ha : c.admitted s = true) : (c.effect s).2.Inv := by
  rcases effect_cases c s with ⟨-, he⟩ | ⟨ws, rfl, he⟩ | ⟨ps, rfl, hps, he⟩ | ⟨rfl, he⟩ | he <;> rw [he]
  · exact inv_reset
  · refine inv_of_loaded hs (run_of_admitted_loadProgram ha) rfl rfl rfl rfl (writeWords_wf hs.mem_wf 0 _ ?_)
    rw [Nat.zero_add]
    exact List.length_take_le _ _
  · refine inv_of_loaded hs (run_of_admitted_loadData ha) rfl rfl rfl rfl (writePairs_wf hs.mem_wf ps fun p hp => ?_)
    exact (hps p hp).trans (by decide)
  · exact inv_start hs (run_of_admitted_start ha)
  · exact hs

theorem inv_request (r : Request) {s : State} (hs : s.Inv) : (request r s).2.Inv := by
  rcases request_cases r s with hsame | ⟨c, -, ha, he⟩
  · rwa [hsame]
  · rw [he]
    exact inv_effect hs ha

/-- Settles O43, by induction on how the state arose. -/
theorem reachableStatesAreSound : Obligations.ReachableStatesAreSound := by
  intro s h
  induction h with
  | reset => exact inv_reset
  | step _ hstep ih => exact stepKeepsInvariant _ _ ih hstep
  | request r _ ih => exact inv_request r ih

/-! ## The writers of the registers -/

/-- Only the plain reset request is the command reset (rule R187). -/
theorem eq_plain_reset_of_toCommand {r : Request} (h : r.toCommand = some .reset) : r = .plain .reset := by
  cases r with
  | loadProgram lines =>
    obtain ⟨ws, -, hc⟩ := Option.map_eq_some_iff.1 h
    cases hc
  | loadData pairs =>
    obtain ⟨ps, -, hc⟩ := Option.map_eq_some_iff.1 h
    cases hc
  | plain c => exact congrArg Request.plain (Option.some.inj h)

theorem effect_regs {c : Command} (hc : c ≠ .reset) (s : State) : (c.effect s).2.regs = s.regs := by
  rcases effect_cases c s with ⟨h, -⟩ | ⟨ws, -, he⟩ | ⟨ps, -, -, he⟩ | ⟨-, he⟩ | he
  · exact absurd h hc
  all_goals exact (congrArg State.regs he).trans rfl

/-- Settles O32: a step that changes a register is a completed word that writes it, and reset is the one request that
does. -/
theorem registersWrittenOnlyByAluLoadAndReset : Obligations.RegistersWrittenOnlyByAluLoadAndReset := by
  constructor
  · intro s t r h hne
    obtain ⟨-, ⟨-, rfl⟩ | ⟨-, -, rfl⟩ | ⟨w, -, hcell, hword⟩⟩ := step_word_cases h
    · exact absurd rfl hne
    · exact absurd rfl hne
    refine ⟨w, hcell, ?_⟩
    rcases hword with ⟨-, rfl⟩ | ⟨q, c, hwrites, rfl⟩ | ⟨a, c, -, rfl⟩ | rfl
    · exact absurd rfl hne
    · by_cases hq : r = q
      · exact hq ▸ hwrites
      · exact absurd (get_set_other s.regs c hq) hne
    · exact absurd rfl hne
    · exact absurd rfl hne
  · intro q s hq
    rcases request_cases q s with hsame | ⟨c, hc, -, he⟩
    · rw [hsame]
    · rw [he]
      exact effect_regs (fun hreset => hq (eq_plain_reset_of_toCommand (hreset ▸ hc))) s

/-! ## The STATUS words -/

/-- Settles O45, by computing the three fields that each halt writes. -/
theorem statusWordsAfterHalt : Obligations.StatusWordsAfterHalt := by
  refine ⟨by decide, fun s hs => ⟨?_, ?_, fun k => ?_⟩⟩
  · rw [halt_status, hs]
    decide
  · rw [halt_status, hs]
    decide
  · rw [raise_status, halt_status, hs]
    revert k
    decide

/-! ## The sequencer of the blocks

Its five answers in a cycle without start and reset: no step, the three checks in their order, and a step that
completes. -/

section Sequencer

variable {run : RunState} {status : BitVec 16} {p : SequencerIn}

/-- No step is taken outside RUNNING (rule R140). -/
theorem controlSequencer_not_running (hstart : p.start = false) (hreset : p.reset = false) (hr : run ≠ .running) :
    controlSequencer run status p = ⟨run, status, false, false, false⟩ := by
  have hstep : (run == .running) = false := beq_false_of_ne hr
  simp [controlSequencer, startTaken, incTaken, stepTaken, hstart, hreset, hstep]

/-- The bound comes first (rule R143). -/
theorem controlSequencer_atBound (hstart : p.start = false) (hreset : p.reset = false) (hb : p.atBound = true) :
    controlSequencer .running status p =
      ⟨.halted, setStatusHaltReason (setStatusRun status RunState.halted.code) HaltReason.bound.code,
        false, false, false⟩ := by
  simp [controlSequencer, startTaken, incTaken, stepTaken, hstart, hreset, hb]

/-- Below the bound, an EMPTY cell comes before the fault (rule R142). -/
theorem controlSequencer_fetchEmpty (hstart : p.start = false) (hreset : p.reset = false) (hb : p.atBound = false)
    (he : p.fetchEmpty = true) :
    controlSequencer .running status p =
      ⟨.halted, setStatusHaltReason (setStatusRun status RunState.halted.code) HaltReason.emptyCell.code,
        false, false, false⟩ := by
  simp [controlSequencer, startTaken, incTaken, stepTaken, hstart, hreset, hb, he]

/-- The fault of a fetched word (rule R171). -/
theorem controlSequencer_aluFault (hstart : p.start = false) (hreset : p.reset = false) (hb : p.atBound = false)
    (he : p.fetchEmpty = false) (hf : p.aluFault = true) :
    controlSequencer .running status p =
      ⟨.halted, setStatusBadIdx
        (setStatusHaltReason (setStatusRun status RunState.halted.code) HaltReason.fault.code) p.badIdx,
        false, false, false⟩ := by
  simp [controlSequencer, startTaken, incTaken, stepTaken, hstart, hreset, hb, he, hf]

/-- A step that meets no check raises `pc_inc` and enables the writes (rule R155). -/
theorem controlSequencer_completes (hstart : p.start = false) (hreset : p.reset = false) (hb : p.atBound = false)
    (he : p.fetchEmpty = false) (hf : p.aluFault = false) :
    controlSequencer .running status p = ⟨.running, status, true, false, true⟩ := by
  simp [controlSequencer, startTaken, incTaken, stepTaken, hstart, hreset, hb, he, hf]

end Sequencer

/-! ## One cycle of the blocks -/

/-- The alu_executor's outputs for the word `w`, fed from the two register read ports (rule R37). -/
def aluPorts (s : State) (w : Word) : AluOut :=
  aluExecutor (fieldsOf w).opcode (fieldsOf w).i (fieldsOf w).op2 (registerRead s.regs (readIndexA (fieldsOf w)))
    (registerRead s.regs (fieldsOf w).op3)

/-- The word the fetch_unit puts out, whatever the cell at the pc holds. -/
def cycleWord (s : State) : Word :=
  (fetchUnit s.pc (memoryRead s.mem s.pc.toNat)).instr

/-- The sequencer's inputs in a cycle without start and reset. -/
def cycleInput (s : State) : SequencerIn where
  start := false
  reset := false
  atBound := (fetchUnit s.pc (memoryRead s.mem s.pc.toNat)).atBound
  fetchEmpty := (fetchUnit s.pc (memoryRead s.mem s.pc.toNat)).fetchEmpty
  aluFault := !(fieldsOf (cycleWord s)).t && (aluPorts s (cycleWord s)).fault
  badIdx := (fieldsOf (cycleWord s)).op2

theorem cycleInput_atBound_of_le {s : State} (hpc : 40 ≤ s.pc.toNat) : (cycleInput s).atBound = true :=
  decide_eq_true hpc

theorem cycleInput_atBound_of_lt {s : State} (hpc : s.pc.toNat < 40) : (cycleInput s).atBound = false :=
  decide_eq_false (Nat.not_le.2 hpc)

theorem cycleInput_fetchEmpty {s : State} (hpc : s.pc.toNat < 40) :
    (cycleInput s).fetchEmpty = (s.mem.read s.pc.toNat).isEmpty := by
  have hb : decide (Config.nmem ≤ s.pc.toNat) = false := cycleInput_atBound_of_lt hpc
  simp only [cycleInput, fetchUnit, memoryRead, valid_cellBits, hb, Bool.not_not, Bool.not_false, Bool.and_true]

theorem cycleInput_fetchEmpty_of_word {s : State} {w : Word} (hpc : s.pc.toNat < 40)
    (hcell : s.mem.read s.pc.toNat = .word w) : (cycleInput s).fetchEmpty = false := by
  rw [cycleInput_fetchEmpty hpc, hcell]
  rfl

theorem cycleWord_of_read {s : State} {w : Word} (hw : s.mem.read s.pc.toNat = .word w) : cycleWord s = w := by
  rw [cycleWord, fetchUnit, memoryRead, hw, data_cellBits_word]

/-- The gated `fault` output is set for the faulting words and for no other (rules R111, R170). -/
theorem faultingWord_iff_aluPorts (s : State) (w : Word) :
    faultingWord w ↔ (!(fieldsOf w).t && (aluPorts s w).fault) = true := by
  have hbit : ∀ o : BitVec 4, 8 ≤ o.toNat ↔ o.getLsbD 3 = true := by decide
  simp only [faultingWord, fieldsOf, aluPorts, aluExecutor, hbit, Bool.and_eq_true, Bool.not_eq_true']

/-- The state after a cycle without reset in which the sequencer answers `q`: the writes that `exec_en` enables, and the
pc that the strobes give (rules R141, R148, R155). -/
def afterCycle (s : State) (q : SequencerOut) : State :=
  let d := fieldsOf (cycleWord s)
  let lsu := loadStoreUnit d.opcode d.op1 d.op2 (registerRead s.regs (readIndexA d)) (memoryRead s.mem d.op2.toNat)
  { s with
    regs :=
      registerWrite s.regs (q.execEn && (if d.t then lsu.wEn else (aluPorts s (cycleWord s)).wEn))
        (if d.t then lsu.wIdx else d.op1) (if d.t then lsu.wCell else 1#1 ++ (aluPorts s (cycleWord s)).result)
    mem := if q.execEn && d.t && lsu.mEn then s.mem.write lsu.mAddr.toNat (CellBits.cell lsu.mData) else s.mem
    pc := programCounter s.pc q.pcInc q.pcClear
    run := q.run
    status := q.status }

theorem blockCycle_eq_afterCycle (s : State) :
    blockCycle false false s = afterCycle s (controlSequencer s.run s.status (cycleInput s)) := rfl

/-- Where the sequencer raises no strobe, only its own state and STATUS change. -/
theorem afterCycle_no_strobe (s : State) (run : RunState) (status : BitVec 16) :
    afterCycle s ⟨run, status, false, false, false⟩ = { s with run := run, status := status } := rfl

/-- A completed data-transfer word: LOAD writes operand1's register, STORE the cell at operand2, and the other opcodes
nothing (rule R134). -/
theorem afterCycle_dt {s : State} (ht : (fieldsOf (cycleWord s)).t = true) (hr : s.run = .running) :
    afterCycle s ⟨.running, s.status, true, false, true⟩ =
      if (fieldsOf (cycleWord s)).opcode = 5 then
        (s.writeReg (Reg.ofBits (fieldsOf (cycleWord s)).op1) (s.mem.read (fieldsOf (cycleWord s)).op2.toNat)).advancePc
      else if (fieldsOf (cycleWord s)).opcode = 6 then
        (storeCell s (fieldsOf (cycleWord s)).op2.toNat
          (s.regs.get (Reg.ofBits (fieldsOf (cycleWord s)).op1))).advancePc
      else s.advancePc := by
  generalize hd : fieldsOf (cycleWord s) = d at ht ⊢
  by_cases h5 : d.opcode = 5#4
  · simp [afterCycle, hd, ht, h5, loadStoreUnit, registerWrite, memoryRead, programCounter, State.writeReg,
      State.advancePc, hr]
  by_cases h6 : d.opcode = 6#4
  · simp [afterCycle, hd, ht, h6, loadStoreUnit, registerWrite, registerRead, readIndexA, programCounter, storeCell,
      State.advancePc, hr]
  · simp [afterCycle, hd, ht, h5, h6, loadStoreUnit, registerWrite, programCounter, State.advancePc, hr]

/-- A completed ALU word: the opcodes 0 to 4 write the result port into operand1's register (rule R111). -/
theorem afterCycle_alu {s : State} (ht : (fieldsOf (cycleWord s)).t = false) (hr : s.run = .running) :
    afterCycle s ⟨.running, s.status, true, false, true⟩ =
      if (fieldsOf (cycleWord s)).opcode.toNat ≤ 4 then
        (s.writeReg (Reg.ofBits (fieldsOf (cycleWord s)).op1) (.word (aluPorts s (cycleWord s)).result)).advancePc
      else s.advancePc := by
  have hen : (aluPorts s (cycleWord s)).wEn = decide ((fieldsOf (cycleWord s)).opcode.toNat ≤ 4) := rfl
  by_cases ho : (fieldsOf (cycleWord s)).opcode.toNat ≤ 4 <;>
    simp [afterCycle, ht, hen, ho, registerWrite, programCounter, State.writeReg, State.advancePc, hr]

/-! ## The result port -/

/-- The ALU's bitwise operations on words are those on their values (rules R106 to R108). -/
theorem enc_and (x y : Word) : enc (x.toNat &&& y.toNat : Nat) = .word (x &&& y) := by
  rw [enc_natCast, ← BitVec.toNat_and, BitVec.ofNat_toNat, BitVec.setWidth_eq]

theorem enc_or (x y : Word) : enc (x.toNat ||| y.toNat : Nat) = .word (x ||| y) := by
  rw [enc_natCast, ← BitVec.toNat_or, BitVec.ofNat_toNat, BitVec.setWidth_eq]

theorem enc_xor (x y : Word) : enc (x.toNat ^^^ y.toNat : Nat) = .word (x ^^^ y) := by
  rw [enc_natCast, ← BitVec.toNat_xor, BitVec.ofNat_toNat, BitVec.setWidth_eq]

/-- Where it does not fault, the alu_executor's result for the opcodes 0 to 4 is the result of rules R102 to R108 on the
values of its two ports. -/
theorem aluOp_eq_result {o : BitVec 4} (ho : o.toNat ≤ 4) {i : Bool} {imm : BitVec 4}
    (hf : (!i && imm.getLsbD 3) = false) (ra rb : CellBits) :
    aluOp o (if i then imm.setWidth Config.w else CellBits.value ra).toNat (CellBits.value rb).toNat =
      .write (.word (aluExecutor o i imm ra rb).result) := by
  simp only [aluExecutor, hf]
  generalize (if i then imm.setWidth Config.w else CellBits.value ra) = x
  generalize CellBits.value rb = y
  obtain ⟨n, hn, rfl⟩ := exists_opcode_eq_ofNat o
  rw [toNat_ofNat4 hn] at ho
  interval_cases n
  · exact congrArg AluEffect.write (enc_add x y)
  · exact (subtract_wrap _ _).trans (congrArg AluEffect.write (enc_sub x y))
  · exact congrArg AluEffect.write (enc_and x y)
  · exact congrArg AluEffect.write (enc_or x y)
  · exact congrArg AluEffect.write (enc_xor x y)

/-- The alu_executor's first operand is the value of sourceA, from the literal or from read port A (rules R37, R79). -/
theorem sourceAValue_eq_port {w : Word} (ht : (fieldsOf w).t = false) (s : State) :
    sourceAValue w s =
      (if (fieldsOf w).i then (fieldsOf w).op2.setWidth Config.w
        else CellBits.value (registerRead s.regs (readIndexA (fieldsOf w)))).toNat := by
  unfold sourceAValue
  cases hi : (fieldsOf w).i with
  | true =>
    rw [if_pos rfl, if_pos rfl, BitVec.toNat_setWidth]
    exact (Nat.mod_eq_of_lt ((fieldsOf w).op2.isLt.trans (by decide))).symm
  | false => simp [readIndexA, hi, ht, registerRead, value_cellBits_toNat]

/-! ## The blocks and the step -/

theorem blockCycle_atBound {s : State} (hr : s.run = .running) (hpc : 40 ≤ s.pc.toNat) :
    blockCycle false false s = s.halt .bound := by
  rw [blockCycle_eq_afterCycle, hr, controlSequencer_atBound rfl rfl (cycleInput_atBound_of_le hpc)]
  rfl

theorem blockCycle_emptyCell {s : State} (hr : s.run = .running) (hpc : s.pc.toNat < 40)
    (hcell : s.mem.read s.pc.toNat = .empty) : blockCycle false false s = s.halt .emptyCell := by
  have he : (cycleInput s).fetchEmpty = true := by
    rw [cycleInput_fetchEmpty hpc, hcell]
    rfl
  rw [blockCycle_eq_afterCycle, hr, controlSequencer_fetchEmpty rfl rfl (cycleInput_atBound_of_lt hpc) he]
  rfl

theorem blockCycle_faulting {s : State} {w : Word} (hr : s.run = .running) (hpc : s.pc.toNat < 40)
    (hcell : s.mem.read s.pc.toNat = .word w) (hf : faultingWord w) :
    blockCycle false false s = s.raiseRegisterIndexFault (w.extractLsb' 3 4) := by
  have hw : cycleWord s = w := cycleWord_of_read hcell
  have ha : (cycleInput s).aluFault = true := (faultingWord_iff_aluPorts s (cycleWord s)).1 (hw ▸ hf)
  rw [blockCycle_eq_afterCycle, hr, controlSequencer_aluFault rfl rfl (cycleInput_atBound_of_lt hpc)
    (cycleInput_fetchEmpty_of_word hpc hcell) ha, ← hw]
  rfl

theorem blockCycle_completes {s : State} {w : Word} (hr : s.run = .running) (hpc : s.pc.toNat < 40)
    (hcell : s.mem.read s.pc.toNat = .word w) (hf : ¬ faultingWord w) :
    blockCycle false false s = afterCycle s ⟨.running, s.status, true, false, true⟩ := by
  have hw : cycleWord s = w := cycleWord_of_read hcell
  have ha : (cycleInput s).aluFault = false :=
    Bool.eq_false_iff.2 (mt (faultingWord_iff_aluPorts s (cycleWord s)).2 (hw ▸ hf))
  rw [blockCycle_eq_afterCycle, hr, controlSequencer_completes rfl rfl (cycleInput_atBound_of_lt hpc)
    (cycleInput_fetchEmpty_of_word hpc hcell) ha]

/-- The cycle of a word that does not fault does what its instruction does. -/
theorem exec_eq_afterCycle {s : State} (hr : s.run = .running) (hf : ¬ faultingWord (cycleWord s)) :
    exec (decode (cycleWord s)) s = .next (afterCycle s ⟨.running, s.status, true, false, true⟩) := by
  cases ht : (fieldsOf (cycleWord s)).t with
  | true =>
    rw [exec_decode_dt ht, afterCycle_dt ht hr]
    split
    · rfl
    split <;> rfl
  | false =>
    obtain ⟨hwrite, hnop⟩ := exec_decode_alu ht hf s
    rw [afterCycle_alu ht hr]
    split
    · next ho =>
      refine hwrite _ ?_
      have hfault : (!(fieldsOf (cycleWord s)).i && (fieldsOf (cycleWord s)).op2.getLsbD 3) = false := by
        have hgated := Bool.eq_false_iff.2 (mt (faultingWord_iff_aluPorts s (cycleWord s)).2 hf)
        rwa [ht] at hgated
      rw [sourceAValue_eq_port ht, ← value_cellBits_toNat (Config.emptyRegisterBits (fieldsOf (cycleWord s)).op3)]
      exact aluOp_eq_result ho hfault _ _
    · next ho => exact hnop (Nat.lt_of_not_le ho)

/-- Settles O59: the sequencer meets the step's cases in the step's order, and the ports carry what the instruction
writes. -/
theorem blocksRefineStep : Obligations.BlocksRefineStep := by
  refine fun s => ⟨fun t h => ?_, fun hr => ?_⟩
  · obtain ⟨hr, ⟨hpc, rfl⟩ | ⟨hpc, hcell, rfl⟩ | ⟨w, hpc, hcell, he⟩⟩ := step_cases h
    · exact blockCycle_atBound hr hpc
    · exact blockCycle_emptyCell hr hpc hcell
    by_cases hf : faultingWord w
    · cases he.symm.trans (exec_decode_faulting hf s)
      exact blockCycle_faulting hr hpc hcell hf
    · rw [blockCycle_completes hr hpc hcell hf]
      rw [← cycleWord_of_read hcell] at hf he
      cases he.symm.trans (exec_eq_afterCycle hr hf)
      rfl
  · rw [blockCycle_eq_afterCycle, controlSequencer_not_running rfl rfl hr]
    rfl

end Sys2Proof.Proofs
end

section
/-! PROOFS. Memory across steps and runs (rules R56, R65, R68, R69): what a step can write, what a run leaves as it was,
and what the fetch finds where a STORE has written. -/

namespace Sys2Proof.Proofs

open Sys2Proof.Machine Sys2Proof.Laws

/-! ## Runs -/

/-- A state without a next state is kept by every run (rules R149, R199). -/
theorem runFor_of_no_next {s : State} (h : ∀ t, step s ≠ .next t) (n : Nat) : runFor n s = s := by
  cases n with
  | zero => rfl
  | succ n =>
    unfold runFor
    split
    · next t ht => exact absurd ht (h t)
    · rfl
    · rfl

/-- What every step keeps, every run keeps. -/
theorem runFor_keeps {P : State → Prop} (hstep : ∀ s t, P s → step s = .next t → P t) (n : Nat) {s : State}
    (hs : P s) : P (runFor n s) := by
  induction n generalizing s with
  | zero => exact hs
  | succ n ih =>
    by_cases hnext : ∃ t, step s = .next t
    · obtain ⟨t, ht⟩ := hnext
      rw [runFor_next ht]
      exact ih (hstep s t hs ht)
    · rw [runFor_of_no_next (not_exists.1 hnext)]
      exact hs

/-! ## What a step writes to memory -/

/-- A step leaves the memory, or writes one of the cells 0 to 15, which are all that operand2 reaches (rules R56,
R132). -/
theorem step_mem_cases {s t : State} (h : step s = .next t) :
    t.mem = s.mem ∨ ∃ a c, a < 16 ∧ t.mem = s.mem.write a c := by
  obtain ⟨-, ⟨-, rfl⟩ | ⟨-, -, rfl⟩ | ⟨w, -, -, hword⟩⟩ := step_word_cases h
  · exact .inl rfl
  · exact .inl rfl
  rcases hword with ⟨-, rfl⟩ | ⟨r, c, -, rfl⟩ | ⟨a, c, ha, rfl⟩ | rfl
  · exact .inl rfl
  · exact .inl rfl
  · exact .inr ⟨a, c, ha, rfl⟩
  · exact .inl rfl

theorem step_keeps_cell_of_ge {s t : State} {a : Nat} (ha : 16 ≤ a) (h : step s = .next t) :
    t.mem.read a = s.mem.read a := by
  rcases step_mem_cases h with hmem | ⟨b, c, hb, hmem⟩
  · rw [hmem]
  · rw [hmem, read_write_other _ _ (by omega)]

/-- Settles O33: no single step changes such a cell, so no run does. -/
theorem cellsFrom16AreFixed : Obligations.CellsFrom16AreFixed := by
  intro n s a ha
  exact runFor_keeps (P := fun u => u.mem.read a = s.mem.read a)
    (fun _ _ hu h => (step_keeps_cell_of_ge ha h).trans hu) n rfl

/-! ## A STORE and the fetch of its cell -/

/-- The fetch of a word below the bound runs its instruction (rules R144, R148). -/
theorem step_of_word {s : State} {w : Word} (hr : s.run = .running) (hpc : s.pc.toNat < 40)
    (hw : s.mem.read s.pc.toNat = .word w) : step s = exec (decode w) s := by
  simp only [step, hr, fetch_instr hpc hw]

/-- The fetch of an EMPTY cell below the bound halts the core (rule R142). -/
theorem step_of_empty {s : State} (hr : s.run = .running) (hpc : s.pc.toNat < 40)
    (hc : s.mem.read s.pc.toNat = .empty) : step s = .next (s.halt .emptyCell) := by
  simp only [step, hr, fetch_empty hpc hc]

/-- STORE answers a next state exactly at the cells that exist, and that state differs in the cell and the pc
(rules R128, R129). -/
theorem exec_store_eq_next_iff {r : Reg} {a : Nat} {x : Spare} {s t : State} :
    exec (.store r a x) s = .next t ↔ a < 40 ∧ t = (storeCell s a (s.regs.get r)).advancePc := by
  change execStore r a x s = .next t ↔ _
  rcases Nat.lt_or_ge a 40 with ha | ha
  · rw [execStore_next r x s ha, Host.Outcome.next.injEq, eq_comm]
    exact (and_iff_right ha).symm
  · rw [execStore_outside r x s ha]
    exact iff_of_false nofun fun ⟨hlt, _⟩ => Nat.not_lt.2 ha hlt

/-- Settles O34: the cell that the fetch reads is the register's cell that STORE wrote. -/
theorem storeSeenByFetch : Obligations.StoreSeenByFetch := by
  intro r a x s t u hstore hrun hpc hcell
  obtain ⟨ha, rfl⟩ := exec_store_eq_next_iff.1 hstore
  have hlt : u.pc.toNat < 40 := hpc ▸ ha
  have hread : u.mem.read u.pc.toNat = s.regs.get r :=
    calc u.mem.read u.pc.toNat
        = u.mem.read a := by rw [hpc]
      _ = (s.mem.write a (s.regs.get r)).read a := hcell
      _ = s.regs.get r := read_write_same _ _ _
  exact ⟨fun w hw => step_of_word hrun hlt (hread.trans hw), fun he => step_of_empty hrun hlt (hread.trans he)⟩

end Sys2Proof.Proofs
end

section
/-! PROOFS. The encoding (rules R75 to R87): the encoder's formulas, the two round trips, the ignored fields, and the
pseudo-instructions that stand for encoded words (rule R91). -/

namespace Sys2Proof.Proofs

open Sys2Proof.Machine Sys2Proof.Laws

/-! ## Fields of a word -/

/-- A bit inside a field, by its place in the whole. -/
theorem getLsbD_extract_sub {n : Nat} (w : BitVec n) {start len k : Nat} (hlo : start ≤ k) (hhi : k < start + len) :
    (w.extractLsb' start len).getLsbD (k - start) = w.getLsbD k := by
  have hlt : k - start < len := by omega
  simp only [BitVec.getLsbD_extractLsb', hlt, decide_true, Bool.true_and, Nat.add_sub_cancel' hlo]

/-- Two bit vectors that agree in a range of bits agree in every bit of it. -/
theorem getLsbD_eq_of_extract {n start len : Nat} {v w : BitVec n}
    (h : v.extractLsb' start len = w.extractLsb' start len) {k : Nat} (hlo : start ≤ k) (hhi : k < start + len) :
    v.getLsbD k = w.getLsbD k := by
  rw [← getLsbD_extract_sub v hlo hhi, h, getLsbD_extract_sub w hlo hhi]

/-- Two bit vectors that agree in a range of bits agree in every field inside it. -/
theorem extractLsb'_eq_of_extract {n start len : Nat} {v w : BitVec n}
    (h : v.extractLsb' start len = w.extractLsb' start len) {lo width : Nat} (hlo : start ≤ lo)
    (hhi : lo + width ≤ start + len) : v.extractLsb' lo width = w.extractLsb' lo width := by
  apply BitVec.eq_of_getElem_eq
  intro k hk
  rw [BitVec.getElem_extractLsb', BitVec.getElem_extractLsb']
  exact getLsbD_eq_of_extract h (by omega) (by omega)

/-- Bits 15:11 of a word are t and the opcode (rule R85). -/
theorem code_eq_mode_append_opcode (w : Word) :
    w.extractLsb' 11 5 = BitVec.ofBool (fieldsOf w).t ++ (fieldsOf w).opcode := by
  apply BitVec.eq_of_getLsbD_eq
  intro k hk
  rw [BitVec.getLsbD_append]
  by_cases h4 : k < 4
  · simp [fieldsOf, h4, hk]
  · obtain rfl : k = 4 := by omega
    simp [fieldsOf]

/-- A word is its fields laid side by side: none of its bits is outside them (rules R76, R77). -/
theorem pack_fieldsOf (w : Word) :
    pack (w.extractLsb' 11 5) (fieldsOf w).i (fieldsOf w).op1 (fieldsOf w).op2 (fieldsOf w).op3 = w := by
  apply BitVec.eq_of_getLsbD_eq
  intro k hk
  rw [getLsbD_pack]
  split
  · exact getLsbD_extract_sub w (Nat.zero_le k) (by omega)
  split
  · exact getLsbD_extract_sub w (by omega) (by omega)
  split
  · exact getLsbD_extract_sub w (by omega) (by omega)
  split
  · obtain rfl : k = 10 := by omega
    rfl
  · exact getLsbD_extract_sub w (by omega) (by omega)

/-- The number of a packed word has each field at its weight (rule R84). -/
theorem toNat_pack (code : BitVec 5) (i : Bool) (o1 : BitVec 3) (o2 : BitVec 4) (o3 : BitVec 3) :
    (pack code i o1 o2 o3).toNat =
      (code.toNat <<< 11) ||| (i.toNat <<< 10) ||| (o1.toNat <<< 7) ||| (o2.toNat <<< 3) ||| o3.toNat := by
  simp only [pack, BitVec.toNat_append, BitVec.toNat_ofBool, Nat.shiftLeft_or_distrib, ← Nat.shiftLeft_add]

theorem reg_toNat_toBits (r : Reg) : r.toBits.toNat = r.index := by
  rw [← reg_index_ofBits, reg_ofBits_toBits]

@[simp] theorem immediate_wordSourceA (w : Word) : (wordSourceA w).immediate = (fieldsOf w).i := by
  unfold wordSourceA
  cases hi : w.getLsbD 10 <;> exact hi.symm

@[simp] theorem field_wordSourceA (w : Word) : (wordSourceA w).field = (fieldsOf w).op2 := by
  unfold wordSourceA
  cases w.getLsbD 10 <;> exact (BitVec.ofNat_toNat 4 _).trans (BitVec.setWidth_eq _)

theorem wordSourceA_wellFormed (w : Word) : (wordSourceA w).wellFormed = true := by
  unfold wordSourceA
  cases w.getLsbD 10 <;> exact decide_eq_true (w.extractLsb' 3 4).isLt

/-! ## The rows of the opcode map -/

theorem code_decodeAlu (o : BitVec 4) (d : Reg) (a : SourceA) (b : Reg) : (decodeAlu o d a b).code = 0#1 ++ o := by
  obtain ⟨n, hn, rfl⟩ := exists_opcode_eq_ofNat o
  interval_cases n <;> rfl

theorem code_decodeDt (o : BitVec 4) (r : Reg) (a : Nat) (x : Spare) : (decodeDt o r a x).code = 1#1 ++ o := by
  obtain ⟨n, hn, rfl⟩ := exists_opcode_eq_ofNat o
  interval_cases n <;> rfl

theorem wellFormed_decodeAlu (o : BitVec 4) (d : Reg) (a : SourceA) (b : Reg) :
    (decodeAlu o d a b).wellFormed = a.wellFormed := by
  obtain ⟨n, hn, rfl⟩ := exists_opcode_eq_ofNat o
  interval_cases n <;> rfl

theorem wellFormed_decodeDt (o : BitVec 4) (r : Reg) (a : Nat) (x : Spare) :
    (decodeDt o r a x).wellFormed = addressWellFormed a := by
  obtain ⟨n, hn, rfl⟩ := exists_opcode_eq_ofNat o
  interval_cases n <;> rfl

/-- Every row of the ALU family is encoded by the ALU formula with its opcode (rules R84, R85). -/
theorem encode_decodeAlu (o : BitVec 4) (d : Reg) (a : SourceA) (b : Reg) :
    encode (decodeAlu o d a b) = encodeAlu (0#1 ++ o) d a b := by
  obtain ⟨n, hn, rfl⟩ := exists_opcode_eq_ofNat o
  interval_cases n <;> rfl

/-- Every row of the data-transfer family is encoded by its formula with its opcode (rules R84, R85). -/
theorem encode_decodeDt (o : BitVec 4) (r : Reg) (a : Nat) (x : Spare) :
    encode (decodeDt o r a x) = encodeDt (1#1 ++ o) r a x := by
  obtain ⟨n, hn, rfl⟩ := exists_opcode_eq_ofNat o
  interval_cases n <;> rfl

/-! ## The round trips -/

/-- Settles O3, one row of the opcode map at a time. -/
theorem decodeEncodeRoundTrip : Obligations.DecodeEncodeRoundTrip := by
  intro i
  cases i with
  | add d a b => exact RoundTrip.add d a b
  | sub d a b => exact RoundTrip.sub d a b
  | and d a b => exact RoundTrip.and d a b
  | or d a b => exact RoundTrip.or d a b
  | xor d a b => exact RoundTrip.xor d a b
  | nopa5 d a b => exact RoundTrip.nopa5 d a b
  | nopa6 d a b => exact RoundTrip.nopa6 d a b
  | nopa7 d a b => exact RoundTrip.nopa7 d a b
  | nopa8 d a b => exact RoundTrip.nopa8 d a b
  | nopa9 d a b => exact RoundTrip.nopa9 d a b
  | nopa10 d a b => exact RoundTrip.nopa10 d a b
  | nopa11 d a b => exact RoundTrip.nopa11 d a b
  | nopa12 d a b => exact RoundTrip.nopa12 d a b
  | nopa13 d a b => exact RoundTrip.nopa13 d a b
  | nopa14 d a b => exact RoundTrip.nopa14 d a b
  | nopa15 d a b => exact RoundTrip.nopa15 d a b
  | nopd0 r a x => exact RoundTrip.nopd0 r a x
  | nopd1 r a x => exact RoundTrip.nopd1 r a x
  | nopd2 r a x => exact RoundTrip.nopd2 r a x
  | nopd3 r a x => exact RoundTrip.nopd3 r a x
  | nopd4 r a x => exact RoundTrip.nopd4 r a x
  | load r a x => exact RoundTrip.load r a x
  | store r a x => exact RoundTrip.store r a x
  | nopd7 r a x => exact RoundTrip.nopd7 r a x
  | nopd8 r a x => exact RoundTrip.nopd8 r a x
  | nopd9 r a x => exact RoundTrip.nopd9 r a x
  | nopd10 r a x => exact RoundTrip.nopd10 r a x
  | nopd11 r a x => exact RoundTrip.nopd11 r a x
  | nopd12 r a x => exact RoundTrip.nopd12 r a x
  | nopd13 r a x => exact RoundTrip.nopd13 r a x
  | nopd14 r a x => exact RoundTrip.nopd14 r a x
  | nopd15 r a x => exact RoundTrip.nopd15 r a x

/-- Settles O4: in either family the encoder packs the fields that the decoder took from the word. -/
theorem encodeDecodeRoundTrip : Obligations.EncodeDecodeRoundTrip := by
  intro w
  have hcode := code_eq_mode_append_opcode w
  cases ht : w.getLsbD 15 with
  | false =>
    rw [show (fieldsOf w).t = false from ht] at hcode
    rw [decode_alu ht, encode_decodeAlu, encodeAlu, immediate_wordSourceA, field_wordSourceA, reg_toBits_ofBits,
      reg_toBits_ofBits]
    exact hcode ▸ pack_fieldsOf w
  | true =>
    rw [show (fieldsOf w).t = true from ht] at hcode
    rw [decode_dt ht, encode_decodeDt, encodeDt, reg_toBits_ofBits, BitVec.ofNat_toNat, BitVec.setWidth_eq]
    exact hcode ▸ pack_fieldsOf w

/-- Settles O5, family by family: a row has its own code, and operand2 is a 4-bit field of the word. -/
theorem everyWordDecodes : Obligations.EveryWordDecodes := by
  intro w
  rw [code_eq_mode_append_opcode]
  cases ht : w.getLsbD 15 with
  | false =>
    rw [show (fieldsOf w).t = false from ht, decode_alu ht, code_decodeAlu, wellFormed_decodeAlu]
    exact ⟨rfl, wordSourceA_wellFormed w⟩
  | true =>
    rw [show (fieldsOf w).t = true from ht, decode_dt ht, code_decodeDt, wellFormed_decodeDt]
    exact ⟨rfl, decide_eq_true (fieldsOf w).op2.isLt⟩

/-- Settles O1, by decoding the nine words. -/
theorem writtenWordsDecode : Obligations.WrittenWordsDecode := by
  unfold Obligations.WrittenWordsDecode
  decide

/-! ## The encoding formulas -/

/-- The ALU rows in opcode order: each stands at its opcode (rule R85). -/
theorem eq_decodeAlu_of_mem_zipIdx {d b : Reg} {a : SourceA} {p : Instr × Nat}
    (hp : p ∈ (aluDefined d a b ++ aluNoops d a b).zipIdx) :
    ∃ o : BitVec 4, p = (decodeAlu o d a b, o.toNat) := by
  have hrows : (aluDefined d a b ++ aluNoops d a b).zipIdx =
      (List.range 16).map fun n => (decodeAlu (BitVec.ofNat 4 n) d a b, n) := rfl
  rw [hrows] at hp
  obtain ⟨n, hn, rfl⟩ := List.mem_map.1 hp
  exact ⟨BitVec.ofNat 4 n, by rw [toNat_ofNat4 (List.mem_range.1 hn)]⟩

/-- The number of an ALU word, for any sourceA (rule R84). -/
theorem toNat_encode_decodeAlu (o : BitVec 4) (d : Reg) (a : SourceA) (b : Reg) :
    (encode (decodeAlu o d a b)).toNat =
      (0 <<< 15) ||| (o.toNat <<< 11) ||| (a.immediate.toNat <<< 10) ||| (d.index <<< 7) |||
        (a.field.toNat <<< 3) ||| b.index := by
  rw [encode_decodeAlu, encodeAlu, toNat_pack, reg_toNat_toBits, reg_toNat_toBits, BitVec.toNat_append,
    Nat.shiftLeft_or_distrib, ← Nat.shiftLeft_add]
  rfl

/-- The number of a data-transfer word (rule R84). -/
theorem toNat_encode_decodeDt (o : BitVec 4) (r : Reg) {a : Nat} (ha : a < 16) (x : Spare) :
    (encode (decodeDt o r a x)).toNat =
      (1 <<< 15) ||| (o.toNat <<< 11) ||| (x.i.toNat <<< 10) ||| (r.index <<< 7) ||| (a <<< 3) ||| x.op3.toNat := by
  rw [encode_decodeDt, encodeDt, toNat_pack, reg_toNat_toBits, toNat_ofNat4 ha, BitVec.toNat_append,
    Nat.shiftLeft_or_distrib, ← Nat.shiftLeft_add]
  rfl

/-- Settles O2: every listed instruction is the row of its listed opcode. -/
theorem encodingFormulas : Obligations.EncodingFormulas := by
  refine ⟨fun d b k hk p hp => ?_, fun d b n hn p hp => ?_, fun r a x ha p hp => ?_⟩
  · obtain ⟨o, rfl⟩ := eq_decodeAlu_of_mem_zipIdx hp
    rw [toNat_encode_decodeAlu, SourceA.field, toNat_ofNat4 hk]
    rfl
  · obtain ⟨o, rfl⟩ := eq_decodeAlu_of_mem_zipIdx hp
    rw [toNat_encode_decodeAlu, SourceA.field, toNat_ofNat4 hn]
    rfl
  · obtain ⟨n, hn, rfl⟩ : ∃ n ∈ List.range 16, (decodeDt (BitVec.ofNat 4 n) r a x, n) = p := List.mem_map.1 hp
    rw [toNat_encode_decodeDt _ _ ha, toNat_ofNat4 (List.mem_range.1 hn)]

/-! ## The ignored fields -/

/-- An ALU operation without a result does not look at its destination (rule R110). -/
theorem aluInstr_noop_dest {op : Nat → Nat → AluEffect} (hop : ∀ x y, op x y = .nothing) (d e : Reg) (a : SourceA)
    (b : Reg) (s : State) : aluInstr op d a b s = aluInstr op e a b s := by
  unfold aluInstr
  cases aluOperands a b s with
  | badIndex index => rfl
  | sources x y => simp only [hop]

/-- Settles O24: what a word does is said by the fields that the two words share. -/
theorem ignoredFieldsDoNotMatter : Obligations.IgnoredFieldsDoNotMatter := by
  constructor
  · intro v w s ht hcode hmid
    have htw : w.getLsbD 15 = true := (getLsbD_eq_of_extract hcode (by omega) (by omega)).symm.trans ht
    have hop : (fieldsOf v).opcode = (fieldsOf w).opcode := extractLsb'_eq_of_extract hcode (by omega) (by omega)
    have hop1 : (fieldsOf v).op1 = (fieldsOf w).op1 := extractLsb'_eq_of_extract hmid (by omega) (by omega)
    have hop2 : (fieldsOf v).op2 = (fieldsOf w).op2 := extractLsb'_eq_of_extract hmid (by omega) (by omega)
    rw [exec_decode_dt ht, exec_decode_dt htw, hop, hop1, hop2]
  · intro v w s ht hge hhigh hlow
    have htw : w.getLsbD 15 = false := (getLsbD_eq_of_extract hhigh (by omega) (by omega)).symm.trans ht
    have hop : (fieldsOf v).opcode = (fieldsOf w).opcode := extractLsb'_eq_of_extract hhigh (by omega) (by omega)
    have hop3 : (fieldsOf v).op3 = (fieldsOf w).op3 := extractLsb'_eq_of_extract hlow (by omega) (by omega)
    have hsrc : wordSourceA v = wordSourceA w := by
      unfold wordSourceA
      rw [getLsbD_eq_of_extract hhigh (by omega) (by omega), extractLsb'_eq_of_extract hlow (by omega) (by omega)]
    rw [decode_alu ht, decode_alu htw, exec_decodeAlu, exec_decodeAlu, ← hop, ← hop3, ← hsrc]
    exact aluInstr_noop_dest (aluOp_of_gt hge) _ _ _ _ s

/-! ## The pseudo-instructions -/

theorem execSeq_cons_next {i : Instr} {s t : State} (h : exec i s = .next t) (is : List Instr) :
    execSeq (i :: is) s = execSeq is t := by
  rw [execSeq, h]

theorem execSeq_singleton_next {i : Instr} {s t : State} (h : exec i s = .next t) : execSeq [i] s = .next t :=
  execSeq_cons_next h []

/-- Writing a result that is a natural number leaves its word (rules R13, R101). -/
theorem writeReg_enc_advancePc (s : State) (d : Reg) (n : Nat) :
    (s.writeReg d (enc n)).advancePc = s.withResult d n := by
  rw [enc_natCast]
  rfl

/-- An ALU instruction whose sources are read and whose result is a number leaves that number's word (rule R101). -/
theorem aluInstr_withResult {op : Nat → Nat → AluEffect} {a : SourceA} {b : Reg} {s : State} {x y n : Nat}
    (hsrc : aluOperands a b s = .sources x y) (hop : op x y = .write (enc n)) (d : Reg) :
    aluInstr op d a b s = .next (s.withResult d n) := by
  simp only [aluInstr, hsrc, hop, writeReg_enc_advancePc]

/-- A register combined with itself by XOR is cleared, also from EMPTY (rule R108). -/
theorem exec_xor_same_source (d : Reg) (s : State) : exec (.xor d (.reg d.index) d) s = .next (s.withResult d 0) :=
  aluInstr_withResult (op := fun x y => .write (enc (x ^^^ y : Nat))) (aluOperands_reg d d s)
    (by simp only [Nat.xor_self]) d

theorem exec_or_same_source (d r : Reg) (s : State) :
    exec (.or d (.reg r.index) r) s = .next (s.withResult d (val (s.regs.get r))) :=
  aluInstr_withResult (op := fun x y => .write (enc (x ||| y : Nat))) (aluOperands_reg r r s)
    (by simp only [Nat.or_self]) d

/-- The negation of a 16-bit value wraps to its two's complement (rules R104, R105). -/
theorem subtract_zero_left (y : Nat) (hy : y < 65536) :
    subtract Config.subNegPolicy 0 y = .write (enc ((65536 - y) % 65536 : Nat)) := by
  rw [subtract_wrap]
  exact congrArg AluEffect.write ((enc_eq_enc_iff _ _).2 (by omega))

theorem exec_sub_zero_left (d r : Reg) (s : State) :
    exec (.sub d (.imm 0) r) s = .next (s.withResult d ((65536 - val (s.regs.get r)) % 65536)) :=
  aluInstr_withResult (aluOperands_imm 0 r s) (subtract_zero_left _ (val_lt _)) d

theorem exec_add_imm (d : Reg) (k : Nat) (b : Reg) (s : State) :
    exec (.add d (.imm k) b) s = .next (s.withResult d (k + val (s.regs.get b))) :=
  aluInstr_withResult (op := fun x y => .write (enc (x + y))) (aluOperands_imm k b s) rfl d

theorem set_set_same (x : RegFile) (r : Reg) (c c' : Cell) : (x.set r c).set r c' = x.set r c' := by
  cases r <;> rfl

@[simp] theorem withResult_regs (s : State) (d : Reg) (v : Nat) :
    (s.withResult d v).regs = s.regs.set d (.word (BitVec.ofNat 16 v)) := rfl

/-- Of two results in one register the later one stays. -/
theorem withResult_withResult (s : State) (d : Reg) (u v : Nat) :
    (s.withResult d u).withResult d v = { (s.withResult d v) with pc := s.pc + 2 } := by
  have hpc : s.pc + 1 + 1 = s.pc + 2 := BitVec.add_assoc s.pc 1 1
  simp only [State.withResult, set_set_same, hpc]

/-- Settles O16: each expansion is run by the rules of its one or two instructions. -/
theorem pseudoInstructionEffects : Obligations.PseudoInstructionEffects := by
  refine ⟨by decide, fun s => rfl, fun d s => execSeq_singleton_next (exec_xor_same_source d s),
    fun d r s => execSeq_singleton_next (exec_or_same_source d r s),
    fun d r s => execSeq_singleton_next (exec_sub_zero_left d r s), fun d k s _ => ⟨rfl, ?_⟩⟩
  have hzero : k + val ((s.withResult d 0).regs.get d) = k := by
    rw [withResult_regs, get_set_same]
    rfl
  calc execSeq (Pseudo.li d k).expand s
      = execSeq [.add d (.imm k) d] (s.withResult d 0) := execSeq_cons_next (exec_xor_same_source d s) _
    _ = .next ((s.withResult d 0).withResult d k) := by rw [execSeq_singleton_next (exec_add_imm ..), hzero]
    _ = .next { (s.withResult d k) with pc := s.pc + 2 } := by rw [withResult_withResult]

end Sys2Proof.Proofs
end

section
/-! PROOFS. The ALU family (rules R100 to R110): the result, the encoding and the one exception of each instruction, the
policy for a negative difference, and what the ALU instructions and the no-ops of both families leave unchanged
(rules R101, R130, R171). -/

namespace Sys2Proof.Proofs

open Sys2Proof.Machine Sys2Proof.Laws

/-! ## The rows of the opcode map as lists of instructions -/

theorem exists_opcode_of_mem_aluDefined {i : Instr} {d b : Reg} {a : SourceA} (hi : i ∈ aluDefined d a b) :
    ∃ o : BitVec 4, o.toNat ≤ 4 ∧ i = decodeAlu o d a b := by
  obtain ⟨n, hn, rfl⟩ : ∃ n ∈ List.range 5, decodeAlu (BitVec.ofNat 4 n) d a b = i := List.mem_map.1 hi
  have hlt : n < 5 := List.mem_range.1 hn
  exact ⟨_, by rw [toNat_ofNat4 (by omega)]; omega, rfl⟩

theorem exists_opcode_of_mem_aluNoops {i : Instr} {d b : Reg} {a : SourceA} (hi : i ∈ aluNoops d a b) :
    ∃ o : BitVec 4, 4 < o.toNat ∧ i = decodeAlu o d a b := by
  obtain ⟨n, hn, rfl⟩ : ∃ n ∈ List.range' 5 11, decodeAlu (BitVec.ofNat 4 n) d a b = i := List.mem_map.1 hi
  obtain ⟨hge, hlt⟩ := List.mem_range'_1.1 hn
  exact ⟨_, by rw [toNat_ofNat4 hlt]; omega, rfl⟩

/-- The data-transfer no-ops are the rows beside LOAD and STORE, and all they do is the pc advance (rule R130). -/
theorem exec_of_mem_dtNoops {i : Instr} {r : Reg} {a : Nat} {x : Spare} (hi : i ∈ dtNoops r a x) (s : State) :
    exec i s = .next s.advancePc := by
  obtain ⟨o, ho, hrow⟩ : ∃ o ∈ [0#4, 1, 2, 3, 4, 7, 8, 9, 10, 11, 12, 13, 14, 15], decodeDt o r a x = i :=
    List.mem_map.1 hi
  have hne : o ≠ 5 ∧ o ≠ 6 := by
    clear hrow
    revert o
    decide
  rw [← hrow, exec_decodeDt, if_neg hne.1, if_neg hne.2]

/-! ## The words under the mask 0xF800 -/

/-- The mask 0xF800 keeps bits 15:11 of a word, which are t and the opcode (rule R85). -/
theorem extract_code_of_mask {w code : Word} (h : w &&& 0xF800#16 = code) :
    w.extractLsb' 11 5 = code.extractLsb' 11 5 := by
  have hmask : (0xF800#16).extractLsb' 11 5 = BitVec.allOnes 5 := by decide
  rw [← h, BitVec.extractLsb'_and, hmask, BitVec.and_allOnes]

/-- The words that match an ALU code are the row of that code's opcode (rules R78, R85). -/
theorem aluEncoding_decodeAlu {code : Word} (ht : (fieldsOf code).t = false) :
    AluEncoding (decodeAlu (fieldsOf code).opcode) code := by
  intro w hw
  have hcode := extract_code_of_mask hw
  have htw : w.getLsbD 15 = false := (getLsbD_eq_of_extract hcode (by omega) (by omega)).trans ht
  have hop : (fieldsOf w).opcode = (fieldsOf code).opcode := extractLsb'_eq_of_extract hcode (by omega) (by omega)
  rw [decode_alu htw, hop]
  rfl

/-! ## The outcomes of an ALU instruction -/

theorem exec_decodeAlu_badIndex (o : BitVec 4) (d : Reg) {n : Nat} (hn : 8 ≤ n) (b : Reg) (s : State) :
    exec (decodeAlu o d (.reg n) b) s = .next (s.faultedWith (BitVec.ofNat 4 n)) := by
  simp only [exec_decodeAlu, aluInstr, aluOperands_bad hn, raise_eq_faultedWith]

/-- An ALU no-op whose sources are read advances the pc (rule R110). -/
theorem exec_aluNoop {i : Instr} {d b : Reg} {a : SourceA} {s : State} {x y : Nat} (hi : i ∈ aluNoops d a b)
    (hsrc : aluOperands a b s = .sources x y) : exec i s = .next s.onlyPcAdvanced := by
  obtain ⟨o, ho, rfl⟩ := exists_opcode_of_mem_aluNoops hi
  simp only [exec_decodeAlu, aluInstr, hsrc, aluOp_of_gt ho]
  rfl

/-- The result of a defined opcode is a word, never EMPTY (rule R101). -/
theorem exists_word_of_aluOp_write {o : BitVec 4} {x y : Nat} {c : Cell} (h : aluOp o x y = .write c) :
    ∃ w, c = .word w := by
  cases c with
  | word w => exact ⟨w, rfl⟩
  | empty =>
    rw [aluOp, subtract_wrap] at h
    split_ifs at h <;> cases h

/-- The states an ALU instruction can leave (rules R101, R110, R171): RegisterIndexFault under every opcode, a word in
the destination under 0 to 4, and only the pc advanced under 5 to 15. -/
theorem next_of_exec_decodeAlu {o : BitVec 4} {d b : Reg} {a : SourceA} {s t : State}
    (h : exec (decodeAlu o d a b) s = .next t) :
    (∃ index, t = s.raiseRegisterIndexFault index) ∨
    (o.toNat ≤ 4 ∧ ∃ w, t = (s.writeReg d (.word w)).advancePc) ∨
    (4 < o.toNat ∧ t = s.advancePc) := by
  rw [exec_decodeAlu] at h
  rcases aluInstr_cases (aluOp o) d a b s with
    ⟨n, -, -, hx⟩ | ⟨x, y, -, ⟨c, hop, hx⟩ | ⟨hop, hx⟩ | ⟨f, -, hx⟩⟩
  · cases h.symm.trans hx
    exact .inl ⟨_, rfl⟩
  · cases h.symm.trans hx
    have ho : o.toNat ≤ 4 := Nat.le_of_not_lt fun hgt => by cases hop.symm.trans (aluOp_of_gt hgt x y)
    obtain ⟨w, rfl⟩ := exists_word_of_aluOp_write hop
    exact .inr (.inl ⟨ho, w, rfl⟩)
  · cases h.symm.trans hx
    have ho : 4 < o.toNat := Nat.lt_of_not_le fun hle => by
      obtain ⟨c, hc⟩ := aluOp_of_le hle x y
      cases hop.symm.trans hc
    exact .inr (.inr ⟨ho, rfl⟩)
  · cases h.symm.trans hx

/-! ## The defined instructions -/

/-- The rule of a defined instruction follows from its result with a 16-bit sourceB: its words, its operands and its
exception are those of every row (rules R85, R100). -/
theorem aluRule_decodeAlu {code : Word} {f : Nat → Nat → Nat} (ht : (fieldsOf code).t = false)
    (hop : ∀ x y, y < 65536 → aluOp (fieldsOf code).opcode x y = .write (enc (f x y : Nat))) :
    AluRule (decodeAlu (fieldsOf code).opcode) code f := by
  refine ⟨aluEncoding_decodeAlu ht, fun d k b s _ => ?_, fun d r b s => ?_,
    fun d n b s hn _ => exec_decodeAlu_badIndex _ d hn b s⟩
  · rw [exec_decodeAlu]
    exact aluInstr_withResult (aluOperands_imm k b s) (hop _ _ (val_lt _)) d
  · rw [exec_decodeAlu]
    exact aluInstr_withResult (aluOperands_reg r b s) (hop _ _ (val_lt _)) d

/-- A difference of 16-bit values, with one modulus added so that it is a natural number (rules R15, R105). -/
theorem enc_sub_natCast {x y : Nat} (hy : y < 65536) :
    enc ((x : Int) - (y : Int)) = enc ((x + 65536 - y : Nat) : Int) :=
  (enc_eq_enc_iff _ _).2 (by omega)

theorem enc_mod (n : Nat) : enc ((n % 65536 : Nat) : Int) = enc (n : Int) :=
  (enc_eq_enc_iff _ _).2 (by omega)

/-- Settles O7: the sum is one natural number, taken modulo 2^16 by the codec. -/
theorem addRule : Obligations.AddRule :=
  aluRule_decodeAlu (code := 0x0000#16) rfl fun x y _ => congrArg AluEffect.write (enc_mod (x + y)).symm

/-- Settles O8: under the default policy a negative difference is encoded with one modulus added. -/
theorem subRule : Obligations.SubRule :=
  aluRule_decodeAlu (code := 0x0800#16) rfl fun x y hy => by
    rw [enc_mod, ← enc_sub_natCast hy]
    exact subtract_wrap x y

/-- Settles O10: AND encodes the bitwise result as it stands. -/
theorem andRule : Obligations.AndRule :=
  aluRule_decodeAlu (code := 0x1000#16) rfl fun _ _ _ => rfl

/-- Settles O11: OR encodes the bitwise result as it stands. -/
theorem orRule : Obligations.OrRule :=
  aluRule_decodeAlu (code := 0x1800#16) rfl fun _ _ _ => rfl

/-- Settles O12: XOR encodes the bitwise result as it stands. -/
theorem xorRule : Obligations.XorRule :=
  aluRule_decodeAlu (code := 0x2000#16) rfl fun _ _ _ => rfl

/-- SUB whose difference is not negative writes it under either policy (rules R104, R105). -/
theorem subtract_of_le (policy : SubNegPolicy) {x y : Nat} (h : y ≤ x) :
    subtract policy x y = .write (.word (BitVec.ofNat 16 (x - y))) := by
  rw [subtract, if_neg fun hneg => Nat.not_lt.2 h hneg.1, ← Int.ofNat_sub h, enc_natCast]

/-- Settles O9: the policies differ only where the difference is negative. -/
theorem negativeDifferencePolicy : Obligations.NegativeDifferencePolicy := by
  refine ⟨fun x y _ hy hlt => ⟨?_, if_pos ⟨hlt, rfl⟩⟩, fun x y _ hle => ⟨subtract_of_le _ hle, subtract_of_le _ hle⟩⟩
  rw [subtract_wrap, enc_sub_natCast hy, enc_natCast]

/-! ## The no-ops -/

/-- Settles O13: the no-ops are the rows of the opcodes 5 to 15, each at its own code. -/
theorem aluNoopRule : Obligations.AluNoopRule := by
  refine ⟨fun d k b s _ i hi => exec_aluNoop hi (aluOperands_imm k b s),
    fun d r b s i hi => exec_aluNoop hi (aluOperands_reg r b s), fun d n b s hn _ i hi => ?_,
    aluEncoding_decodeAlu rfl, aluEncoding_decodeAlu rfl, aluEncoding_decodeAlu rfl, aluEncoding_decodeAlu rfl,
    aluEncoding_decodeAlu rfl, aluEncoding_decodeAlu rfl, aluEncoding_decodeAlu rfl, aluEncoding_decodeAlu rfl,
    aluEncoding_decodeAlu rfl, aluEncoding_decodeAlu rfl, aluEncoding_decodeAlu rfl⟩
  obtain ⟨o, -, rfl⟩ := exists_opcode_of_mem_aluNoops hi
  exact exec_decodeAlu_badIndex o d hn b s

/-! ## The frames -/

theorem raise_statusReserved (s : State) (index : BitVec 4) :
    statusReserved (s.raiseRegisterIndexFault index).status = statusReserved s.status := by
  rw [raise_eq_faultedWith]
  exact statusReserved_pack ..

/-- Settles O14: the exception writes no register, and a completed instruction only its destination and the pc. -/
theorem aluDefinedFrame : Obligations.AluDefinedFrame := by
  intro d a b s t i hi h
  obtain ⟨o, ho, rfl⟩ := exists_opcode_of_mem_aluDefined hi
  rcases next_of_exec_decodeAlu h with ⟨index, rfl⟩ | ⟨-, w, rfl⟩ | ⟨hgt, -⟩
  · exact ⟨fun _ _ => rfl, fun _ => rfl, rfl, .inr ⟨rfl, rfl, rfl, raise_statusReserved s index⟩⟩
  · exact ⟨fun r hr => get_set_other s.regs _ hr, fun _ => rfl, rfl, .inl ⟨rfl, rfl, w, get_set_same ..⟩⟩
  · exact absurd hgt (Nat.not_lt.2 ho)

/-- Settles O15: an ALU no-op raises the exception or advances the pc, and a data-transfer no-op advances the pc. -/
theorem noopFrame : Obligations.NoopFrame := by
  constructor
  · intro d a b s t i hi h
    obtain ⟨o, ho, rfl⟩ := exists_opcode_of_mem_aluNoops hi
    rcases next_of_exec_decodeAlu h with ⟨index, rfl⟩ | ⟨hle, -⟩ | ⟨-, rfl⟩
    · exact ⟨fun _ => rfl, fun _ => rfl, rfl, .inr ⟨rfl, rfl, raise_statusReserved s index⟩⟩
    · exact absurd ho (Nat.not_lt.2 hle)
    · exact ⟨fun _ => rfl, fun _ => rfl, rfl, .inl ⟨rfl, rfl⟩⟩
  · intro r a x s t i hi h
    cases h.symm.trans (exec_of_mem_dtNoops hi s)
    exact ⟨fun _ => rfl, fun _ => rfl, rfl, rfl, rfl⟩

end Sys2Proof.Proofs
end

section
/-! PROOFS. The data-transfer family (rules R125 to R132): which words are LOAD, STORE and the no-ops, what each writes
and leaves unchanged, and that none of them faults. -/

namespace Sys2Proof.Proofs

open Sys2Proof.Machine Sys2Proof.Laws

/-! ## The words and their addresses -/

/-- The words that match a data-transfer code are the row of that code's opcode (rules R78, R83, R85). -/
theorem dtEncoding_decodeDt {code : Word} (ht : (fieldsOf code).t = true) :
    DtEncoding (decodeDt (fieldsOf code).opcode) code := by
  intro w hw
  have hcode := extract_code_of_mask hw
  have htw : w.getLsbD 15 = true := (getLsbD_eq_of_extract hcode (by omega) (by omega)).trans ht
  have hop : (fieldsOf w).opcode = (fieldsOf code).opcode := extractLsb'_eq_of_extract hcode (by omega) (by omega)
  rw [decode_dt htw, hop]
  rfl

/-- The data-transfer formula puts the address into bits 6:3 (rules R76, R84). -/
theorem address_encodeDt (code : BitVec 5) (r : Reg) {a : Nat} (ha : a < 16) (x : Spare) :
    ((encodeDt code r a x).extractLsb' 3 4).toNat = a := by
  have hop2 : (fieldsOf (encodeDt code r a x)).op2 = BitVec.ofNat 4 a :=
    congrArg Fields.op2 (fieldsOf_pack code x.i r.toBits (BitVec.ofNat 4 a) x.op3)
  exact (congrArg BitVec.toNat hop2).trans (toNat_ofNat4 ha)

theorem lt_of_addressWellFormed {a : Nat} (h : addressWellFormed a = true) : a < 16 :=
  of_decide_eq_true h

/-- Settles O6: the decoded instruction is well-formed, and its own encoding, which is the word, has the address in
bits 6:3. -/
theorem dataAddressAlwaysValid : Obligations.DataAddressAlwaysValid := by
  intro w r a x h
  have hwf : (decode w).wellFormed = true := (everyWordDecodes w).2
  have hw : encode (decode w) = w := encodeDecodeRoundTrip w
  obtain ⟨ha, code, hcode⟩ : a < 16 ∧ ∃ code, encodeDt code r a x = w := by
    rcases h with hload | hstore
    · rw [hload] at hwf hw
      exact ⟨lt_of_addressWellFormed hwf, _, hw⟩
    · rw [hstore] at hwf hw
      exact ⟨lt_of_addressWellFormed hwf, _, hw⟩
  exact ⟨hcode ▸ (address_encodeDt code r ha x).symm, by omega, Nat.lt_trans ha (by decide)⟩

/-! ## LOAD and STORE -/

/-- LOAD answers a next state exactly at the cells that exist, and that state differs in the register and the pc
(rules R126, R127). -/
theorem exec_load_eq_next_iff {r : Reg} {a : Nat} {x : Spare} {s t : State} :
    exec (.load r a x) s = .next t ↔ a < 40 ∧ t = (s.writeReg r (s.mem.read a)).advancePc := by
  change execLoad r a x s = .next t ↔ _
  rcases Nat.lt_or_ge a 40 with ha | ha
  · rw [execLoad_next r x s ha, Host.Outcome.next.injEq, eq_comm]
    exact (and_iff_right ha).symm
  · rw [execLoad_outside r x s ha]
    exact iff_of_false nofun fun ⟨hlt, _⟩ => Nat.not_lt.2 ha hlt

/-- LOAD at an address that operand2 can hold completes (rules R126, R132). -/
theorem exec_load_next (r : Reg) {a : Nat} (x : Spare) (s : State) (ha : a < 16) :
    exec (.load r a x) s = .next (s.writeReg r (s.mem.read a)).advancePc :=
  exec_load_eq_next_iff.2 ⟨by omega, rfl⟩

/-- STORE at an address that operand2 can hold completes (rules R128, R132). -/
theorem exec_store_next (r : Reg) {a : Nat} (x : Spare) (s : State) (ha : a < 16) :
    exec (.store r a x) s = .next (storeCell s a (s.regs.get r)).advancePc :=
  exec_store_eq_next_iff.2 ⟨by omega, rfl⟩

/-- Settles O17: LOAD writes the cell it reads, and an EMPTY cell is written like any other. -/
theorem loadRule : Obligations.LoadRule := by
  refine ⟨dtEncoding_decodeDt (code := 0xA800#16) rfl, fun r a x s ha => exec_load_next r x s ha,
    fun r a x s ha hempty => ⟨_, exec_load_next r x s ha, ?_⟩⟩
  have hget : (s.regs.set r (s.mem.read a)).get r = .empty := (get_set_same ..).trans hempty
  exact ⟨hget, congrArg val hget⟩

/-- Settles O18: the new memory is the old one with the one cell overwritten. -/
theorem storeRule : Obligations.StoreRule :=
  ⟨dtEncoding_decodeDt (code := 0xB000#16) rfl, fun r _ x s ha =>
    ⟨_, exec_store_next r x s ha, read_write_same .., fun _ hk => read_write_other _ _ hk⟩⟩

/-- Settles O19: the STORE writes EMPTY, and the fetch sees what was stored. -/
theorem storeEmptyHaltsLater : Obligations.StoreEmptyHaltsLater := by
  intro r a x s t u _ hempty hstore
  obtain ⟨-, ht⟩ := exec_store_eq_next_iff.1 hstore
  have hcell : t.mem.read a = .empty := by
    rw [ht, advancePc_mem, storeCell_mem, read_write_same, hempty]
  refine ⟨hcell, fun hkept hpc hrun => ?_⟩
  obtain ⟨-, hhalt⟩ := storeSeenByFetch r a x s t u hstore hrun hpc hkept
  exact ⟨u.halt .emptyCell, hhalt hempty, rfl, by rw [halt_status, statusHaltReason_setHaltReason]⟩

/-- Settles O21: LOAD writes one register and the pc, STORE one cell and the pc. -/
theorem loadStoreFrame : Obligations.LoadStoreFrame := by
  constructor
  · intro r a x s t h
    obtain ⟨-, rfl⟩ := exec_load_eq_next_iff.1 h
    exact ⟨fun q hq => get_set_other s.regs _ hq, fun _ => rfl, rfl, rfl, rfl⟩
  · intro r a x s t h
    obtain ⟨-, rfl⟩ := exec_store_eq_next_iff.1 h
    exact ⟨fun k hk => read_write_other s.mem _ hk, fun _ => rfl, rfl, rfl, rfl⟩

/-- Settles O23: LOAD reads the cell that STORE has just written. -/
theorem loadAfterStore : Obligations.LoadAfterStore := by
  intro r q a x y s ha
  refine ⟨_, _, exec_store_next r x s ha, exec_load_next q y _ ha, ?_⟩
  rw [advancePc_regs, writeReg_regs, get_set_same, advancePc_mem, storeCell_mem, read_write_same]

/-! ## The no-ops, and the whole family -/

/-- Settles O20: the no-ops are the rows beside LOAD and STORE, each at its own code. -/
theorem dtNoopRule : Obligations.DtNoopRule :=
  ⟨fun _ _ _ s _ hi => exec_of_mem_dtNoops hi s,
    dtEncoding_decodeDt rfl, dtEncoding_decodeDt rfl, dtEncoding_decodeDt rfl, dtEncoding_decodeDt rfl,
    dtEncoding_decodeDt rfl, dtEncoding_decodeDt rfl, dtEncoding_decodeDt rfl, dtEncoding_decodeDt rfl,
    dtEncoding_decodeDt rfl, dtEncoding_decodeDt rfl, dtEncoding_decodeDt rfl, dtEncoding_decodeDt rfl,
    dtEncoding_decodeDt rfl, dtEncoding_decodeDt rfl⟩

/-- Settles O22: under every opcode the word completes, with a register written, a cell written, or neither. -/
theorem dataTransferNeverFaults : Obligations.DataTransferNeverFaults := by
  intro w s ht
  rw [exec_decode_dt ht]
  split
  · exact ⟨_, rfl, rfl, rfl, rfl⟩
  split
  · exact ⟨_, rfl, rfl, rfl, rfl⟩
  · exact ⟨_, rfl, rfl, rfl, rfl⟩

end Sys2Proof.Proofs
end

section
/-! PROOFS. The execution cycle (rules R140 to R154): when a step exists and what it leaves, what ends a run, and what a
run depends on; and the start and reset signals of the blocks (rules R155, R186, R190). -/

namespace Sys2Proof.Proofs

open Sys2Proof.Machine Sys2Proof.Laws

/-! ## What a step answers in each state -/

theorem step_of_load {s : State} (hr : s.run = .load) : step s = .fault .notStarted := by
  simp only [step, hr]

theorem step_of_halted {s : State} (hr : s.run = .halted) : step s = .fault .coreHalted := by
  simp only [step, hr]

/-- At the bound the core halts, whatever the memory holds (rule R143). -/
theorem step_of_bound {s : State} (hr : s.run = .running) (hpc : 40 ≤ s.pc.toNat) :
    step s = .next (s.halt .bound) := by
  simp only [step, hr, fetch_atBound hpc]

/-- A fetched word that faults halts the core with RegisterIndexFault (rules R170, R171). -/
theorem step_of_faulting {s : State} {w : Word} (hr : s.run = .running) (hpc : s.pc.toNat < 40)
    (hw : s.mem.read s.pc.toNat = .word w) (hf : faultingWord w) :
    step s = .next (s.raiseRegisterIndexFault (w.extractLsb' 3 4)) :=
  (step_of_word hr hpc hw).trans (exec_decode_faulting hf s)

/-- A fetched word that does not fault completes: the pc moves to the next address, and the sequencer and STATUS stay
(rules R144, R145). -/
theorem step_completes {s : State} {w : Word} (hr : s.run = .running) (hpc : s.pc.toNat < 40)
    (hw : s.mem.read s.pc.toNat = .word w) (hf : ¬ faultingWord w) :
    ∃ t, step s = .next t ∧ t.run = .running ∧ t.pc = s.pc + 1 ∧ t.status = s.status := by
  rw [step_of_word hr hpc hw]
  rcases exec_decode_cases hf s with ⟨r, c, -, hx⟩ | ⟨a, c, -, hx⟩ | hx
  · exact ⟨_, hx, hr, rfl, rfl⟩
  · exact ⟨_, hx, hr, rfl, rfl⟩
  · exact ⟨_, hx, hr, rfl, rfl⟩

theorem exists_next_of_running {s : State} (hr : s.run = .running) : ∃ t, step s = .next t := by
  rcases Nat.lt_or_ge s.pc.toNat 40 with hpc | hpc
  · cases hcell : s.mem.read s.pc.toNat with
    | empty => exact ⟨_, step_of_empty hr hpc hcell⟩
    | word w =>
      by_cases hf : faultingWord w
      · exact ⟨_, step_of_faulting hr hpc hcell hf⟩
      · obtain ⟨t, ht, -⟩ := step_completes hr hpc hcell hf
        exact ⟨t, ht⟩
  · exact ⟨_, step_of_bound hr hpc⟩

/-- What a step does to the sequencer and the pc: it completes an instruction below the bound, or it halts
(rules R142 to R145, R171). -/
theorem step_completes_or_halts {s t : State} (h : step s = .next t) :
    (s.pc.toNat < 40 ∧ t.run = .running ∧ t.pc = s.pc + 1 ∧ t.status = s.status) ∨
      (t.run = .halted ∧ t.pc = s.pc) := by
  obtain ⟨hr, ⟨-, rfl⟩ | ⟨-, -, rfl⟩ | ⟨w, hpc, -, hword⟩⟩ := step_word_cases h
  · exact .inr ⟨rfl, rfl⟩
  · exact .inr ⟨rfl, rfl⟩
  rcases hword with ⟨-, rfl⟩ | ⟨r, c, -, rfl⟩ | ⟨a, c, -, rfl⟩ | rfl
  · exact .inr ⟨rfl, rfl⟩
  · exact .inl ⟨hpc, hr, rfl, rfl⟩
  · exact .inl ⟨hpc, hr, rfl, rfl⟩
  · exact .inl ⟨hpc, hr, rfl, rfl⟩

/-- Settles O29: a RUNNING core meets the bound, an EMPTY cell or a word, and has a next state at each. -/
theorem stepExistsExactlyWhileRunning : Obligations.StepExistsExactlyWhileRunning :=
  fun _ => ⟨fun ⟨_, h⟩ => (step_cases h).1, exists_next_of_running⟩

/-- Settles O30, in the two states where no step exists. -/
theorem noStepIsNamed : Obligations.NoStepIsNamed :=
  fun _ => ⟨step_of_load, step_of_halted⟩

/-- Settles O31: a step completes or halts. -/
theorem pcOnlyAdvances : Obligations.PcOnlyAdvances := by
  intro s t h
  rcases step_completes_or_halts h with ⟨-, hrun, hpc, hstatus⟩ | hhalts
  · exact .inl ⟨hrun, hpc, hstatus⟩
  · exact .inr hhalts

/-- Settles O25: every word decodes to a well-formed instruction, and the fetch of one runs it. -/
theorem stepRunsDecodedInstruction : Obligations.StepRunsDecodedInstruction :=
  fun _ w hr hpc hw => ⟨(everyWordDecodes w).2, step_of_word hr hpc hw⟩

/-- A halt sets RUN and HALT_REASON of STATUS and keeps its other fields (rules R142, R143). -/
theorem halt_status_fields (s : State) (reason : HaltReason) :
    statusRun (s.halt reason).status = RunState.halted.code ∧
      statusHaltReason (s.halt reason).status = reason.code ∧
      statusBadIdx (s.halt reason).status = statusBadIdx s.status ∧
      statusReserved (s.halt reason).status = statusReserved s.status := by
  simp

/-- Settles O26: the halt changes the sequencer and STATUS only. -/
theorem emptyCellHalt : Obligations.EmptyCellHalt :=
  fun s hr hpc hcell => ⟨(s.halt .emptyCell).status, step_of_empty hr hpc hcell, halt_status_fields s .emptyCell⟩

/-- Settles O27: the bound is met under every memory, and the halt's STATUS comes from the old STATUS alone. -/
theorem boundHalt : Obligations.BoundHalt :=
  fun s hr hpc =>
    ⟨(s.halt .bound).status, fun m => step_of_bound (s := { s with mem := m }) hr hpc, halt_status_fields s .bound⟩

/-! ## The halted core -/

theorem no_next_of_not_running {s : State} (hr : s.run ≠ .running) (t : State) : step s ≠ .next t :=
  fun h => hr (step_cases h).1

theorem runFor_of_not_running {s : State} (hr : s.run ≠ .running) (n : Nat) : runFor n s = s :=
  runFor_of_no_next (no_next_of_not_running hr) n

/-- Outside LOAD, no command but reset changes the state (rules R187, R188). -/
theorem effect_of_not_load {c : Command} {s : State} (hr : s.run ≠ .load) (ha : c.admitted s = true)
    (hc : c ≠ .reset) : (c.effect s).2 = s := by
  rcases effect_cases c s with ⟨h, -⟩ | ⟨ws, rfl, -⟩ | ⟨ps, rfl, -, -⟩ | ⟨rfl, -⟩ | he
  · exact absurd h hc
  · exact absurd (run_of_admitted_loadProgram ha) hr
  · exact absurd (run_of_admitted_loadData ha) hr
  · exact absurd (run_of_admitted_start ha) hr
  · exact he

theorem request_of_not_load {r : Request} {s : State} (hr : s.run ≠ .load) (hne : r ≠ .plain .reset) :
    (request r s).2 = s := by
  rcases request_cases r s with hsame | ⟨c, hc, ha, he⟩
  · exact hsame
  · rw [he]
    exact effect_of_not_load hr ha fun hreset => hne (eq_plain_reset_of_toCommand (hreset ▸ hc))

/-- Settles O35: HALTED has no next state, and admits no command that changes the state but reset. -/
theorem haltedIsTerminal : Obligations.HaltedIsTerminal := by
  intro s hr
  have hrunning : s.run ≠ .running := by rw [hr]; decide
  have hload : s.run ≠ .load := by rw [hr]; decide
  exact ⟨no_next_of_not_running hrunning, runFor_of_not_running hrunning,
    fun _ hne => request_of_not_load hload hne, rfl⟩

/-! ## Runs -/

/-- A step after `n` steps is the last of `n + 1` steps. -/
theorem runFor_succ_of_step {n : Nat} {s t : State} (h : step (runFor n s) = .next t) : runFor (n + 1) s = t := by
  induction n generalizing s with
  | zero => exact runFor_next h 0
  | succ n ih =>
    by_cases hnext : ∃ u, step s = .next u
    · obtain ⟨u, hu⟩ := hnext
      rw [runFor_next hu] at h ⊢
      exact ih h
    · rw [runFor_of_no_next (not_exists.1 hnext)] at h
      exact absurd ⟨t, h⟩ hnext

/-- The run from `s`, which stands at pc 0, completes `n` instructions: after each of them the core is RUNNING and the
pc has risen by one (rules R145, R152). -/
def CompletesInstructions (s : State) (n : Nat) : Prop :=
  ∀ k, k ≤ n → (runFor k s).run = .running ∧ (runFor k s).pc.toNat = k

theorem completesInstructions_zero {s : State} (hr : s.run = .running) (hpc : s.pc = 0) :
    CompletesInstructions s 0 := by
  intro k hk
  obtain rfl : k = 0 := Nat.le_zero.1 hk
  exact ⟨hr, congrArg BitVec.toNat hpc⟩

/-- One more completed instruction below the bound: there the pc does not wrap. -/
theorem completesInstructions_succ {s t : State} {n : Nat} (hn : CompletesInstructions s n)
    (h : step (runFor n s) = .next t) (hlt : n < 40) (hrun : t.run = .running) (hpc : t.pc = (runFor n s).pc + 1) :
    CompletesInstructions s (n + 1) := by
  intro k hk
  rcases Nat.le_succ_iff.1 hk with hle | rfl
  · exact hn k hle
  · obtain ⟨-, hpcn⟩ := hn n le_rfl
    rw [runFor_succ_of_step h, hpc, toNat_pc_succ (by omega), hpcn]
    exact ⟨hrun, rfl⟩

/-- A run that has completed `n` instructions, with `d` cells left below the bound, completes some more of them and
halts: the pc rises with every one, and at the bound only the halt is left (rule R152). -/
theorem exists_halting_step {s : State} {n d : Nat} (hd : n + d = 40) (hn : CompletesInstructions s n) :
    ∃ m, m ≤ 40 ∧ CompletesInstructions s m ∧
      (runFor (m + 1) s).run = .halted ∧ (runFor (m + 1) s).pc.toNat = m := by
  induction d generalizing n with
  | zero =>
    obtain ⟨hr, hpc⟩ := hn n le_rfl
    have hstep := runFor_succ_of_step (step_of_bound hr (by omega))
    exact ⟨n, by omega, hn, by rw [hstep, halt_run], by rw [hstep, halt_pc, hpc]⟩
  | succ d ih =>
    obtain ⟨hr, hpc⟩ := hn n le_rfl
    obtain ⟨t, ht⟩ := exists_next_of_running hr
    rcases step_completes_or_halts ht with ⟨-, hrun, hnext, -⟩ | ⟨hrun, hkept⟩
    · exact ih (by omega) (completesInstructions_succ hn ht (by omega) hrun hnext)
    · exact ⟨n, by omega, hn, by rw [runFor_succ_of_step ht, hrun], by rw [runFor_succ_of_step ht, hkept, hpc]⟩

/-- Settles O36: at pc 0 nothing has completed, and 40 cells are left. -/
theorem everyRunEnds : Obligations.EveryRunEnds :=
  fun _ hr hpc => exists_halting_step (Nat.zero_add 40) (completesInstructions_zero hr hpc)

/-- A run completes as many instructions as it meets words that do not fault (rule R154). -/
theorem completesInstructions_of_words {s : State} (hr : s.run = .running) (hpc : s.pc = 0) {n : Nat} (hn : n ≤ 40)
    (hwords : ∀ k, k < n → ∃ w, (runFor k s).mem.read k = .word w ∧ ¬ faultingWord w) :
    CompletesInstructions s n := by
  induction n with
  | zero => exact completesInstructions_zero hr hpc
  | succ n ih =>
    have hc : CompletesInstructions s n := ih (by omega) fun k hk => hwords k (by omega)
    obtain ⟨hrn, hpcn⟩ := hc n le_rfl
    obtain ⟨w, hw, hf⟩ := hwords n (by omega)
    obtain ⟨t, ht, hrun, hnext, -⟩ := step_completes hrn (by omega) (by rw [hpcn]; exact hw) hf
    exact completesInstructions_succ hc ht (by omega) hrun hnext

/-- Settles O38: the 40 words complete, and the step after them meets the bound. -/
theorem fullMemoryHaltsAtBound : Obligations.FullMemoryHaltsAtBound := by
  intro s hr hpc hwords
  have hc : CompletesInstructions s 40 := completesInstructions_of_words hr hpc le_rfl hwords
  obtain ⟨hr40, hpc40⟩ := hc 40 le_rfl
  have hlast : runFor 41 s = (runFor 40 s).halt .bound := runFor_succ_of_step (step_of_bound hr40 hpc40.ge)
  obtain ⟨-, hreason, -, -⟩ := halt_status_fields (runFor 40 s) .bound
  rw [hlast]
  exact ⟨hc, rfl, hreason, hpc40⟩

/-! ## The start of a run -/

theorem command_start {s : State} (hr : s.run = .load) : (command .start s).2 = s.start := by
  have ha : Command.start.admitted s = true := beq_iff_eq.2 hr
  rw [command, if_pos ha]
  rfl

/-- A LOAD state that can arise is the reset state but for the memory and the host interface's own bit (rules R185,
R189). -/
theorem eq_reset_of_load {s : State} (h : Reachable s) (hr : s.run = .load) :
    s = { State.reset with mem := s.mem, programLoaded := s.programLoaded } := by
  have hs : s.Inv := reachableStatesAreSound s h
  have hne : s.run ≠ .halted := by rw [hr]; decide
  obtain ⟨hregs, hpc⟩ := hs.load_regs hr
  have hstatus : s.status = 0x0000#16 := by
    rw [← statusPack_fields s.status, hs.status_ok.reserved_zero, badIdx_of_not_halted hs.status_ok hne,
      reason_of_not_halted hs.status_ok hne, hs.status_ok.run_mirrors, hr]
    decide
  obtain ⟨regs, mem, pc, run, status, loaded⟩ := s
  cases hregs
  cases hpc
  cases hr
  cases hstatus
  rfl

theorem get_reset (r : Reg) : RegFile.reset.get r = .word 0 := by
  cases r <;> rfl

/-- Settles O37: start leaves the reset values of the registers, and the fetch at pc 0 meets EMPTY. -/
theorem emptyMemoryHaltsAtOnce : Obligations.EmptyMemoryHaltsAtOnce := by
  intro s h hr hempty
  have hregs : s.regs = RegFile.reset := congrArg State.regs (eq_reset_of_load h hr)
  obtain ⟨-, hreason, -, -⟩ := halt_status_fields s.start .emptyCell
  rw [command_start hr]
  refine ⟨_, step_of_empty rfl (by simp) (hempty 0 (by decide)), rfl, hreason, rfl, fun r => ?_⟩
  rw [halt_regs, start_regs, hregs, get_reset]

/-! ## What a run depends on

No step reads or writes the host interface's own bit, so a run with another value of it is the same run. -/

/-- The state with this value of the host interface's own bit. -/
def withLoaded (loaded : Bool) (s : State) : State :=
  { s with programLoaded := loaded }

theorem sameCore_withLoaded (a b : Bool) (s : State) : (withLoaded a s).sameCore (withLoaded b s) :=
  ⟨rfl, rfl, rfl, rfl, rfl⟩

theorem exec_decode_withLoaded {w : Word} {s t : State} (loaded : Bool) (h : exec (decode w) s = .next t) :
    exec (decode w) (withLoaded loaded s) = .next (withLoaded loaded t) := by
  by_cases hf : faultingWord w
  · cases h.symm.trans (exec_decode_faulting hf s)
    exact exec_decode_faulting hf _
  cases ht : w.getLsbD 15 with
  | true =>
    rw [exec_decode_dt ht] at h ⊢
    split_ifs at h ⊢ <;> cases h <;> rfl
  | false =>
    obtain ⟨hwrite, hnop⟩ := exec_decode_alu ht hf s
    obtain ⟨hwrite', hnop'⟩ := exec_decode_alu ht hf (withLoaded loaded s)
    rcases Nat.lt_or_ge 4 (fieldsOf w).opcode.toNat with hgt | hle
    · cases h.symm.trans (hnop hgt)
      exact hnop' hgt
    · obtain ⟨c, hc⟩ := aluOp_of_le hle _ _
      cases h.symm.trans (hwrite c hc)
      exact hwrite' c hc

theorem step_withLoaded {s t : State} (loaded : Bool) (h : step s = .next t) :
    step (withLoaded loaded s) = .next (withLoaded loaded t) := by
  obtain ⟨hr, ⟨hpc, rfl⟩ | ⟨hpc, hcell, rfl⟩ | ⟨w, hpc, hcell, he⟩⟩ := step_cases h
  · exact step_of_bound hr hpc
  · exact step_of_empty hr hpc hcell
  · exact (step_of_word (s := withLoaded loaded s) hr hpc hcell).trans (exec_decode_withLoaded loaded he)

theorem runFor_withLoaded (n : Nat) (loaded : Bool) (s : State) :
    runFor n (withLoaded loaded s) = withLoaded loaded (runFor n s) := by
  induction n generalizing s with
  | zero => rfl
  | succ n ih =>
    by_cases hr : s.run = .running
    · obtain ⟨t, ht⟩ := exists_next_of_running hr
      rw [runFor_next ht, runFor_next (step_withLoaded loaded ht), ih]
    · rw [runFor_of_not_running hr, runFor_of_not_running (s := withLoaded loaded s) hr]

/-- The run from start of a LOAD state that can arise is the run of the reset state with its memory (rule R151). -/
theorem runFor_start_eq {s : State} (h : Reachable s) (hr : s.run = .load) (n : Nat) :
    runFor n (command .start s).2 =
      withLoaded s.programLoaded (runFor n ({ State.reset with mem := s.mem }).start) := by
  have hstart : s.start = withLoaded s.programLoaded ({ State.reset with mem := s.mem }).start :=
    congrArg State.start (eq_reset_of_load h hr)
  rw [command_start hr, hstart, runFor_withLoaded]

/-- Settles O39: both runs are the run of one state, but for the host interface's own bit. -/
theorem runIsFunctionOfMemory : Obligations.RunIsFunctionOfMemory := by
  intro s t hs ht hrs hrt hmem n
  rw [runFor_start_eq hs hrs, runFor_start_eq ht hrt, hmem]
  exact sameCore_withLoaded _ _ _

/-! ## The start and reset signals of the blocks -/

section Sequencer

variable {run : RunState} {status : BitVec 16} {p : SequencerIn}

/-- In LOAD the start signal clears the pc and enters RUNNING (rule R190). -/
theorem controlSequencer_start (hstart : p.start = true) (hreset : p.reset = false) :
    controlSequencer .load status p =
      ⟨.running, setStatusRun status RunState.running.code, false, true, false⟩ := by
  simp [controlSequencer, startTaken, incTaken, stepTaken, hstart, hreset]

theorem startTaken_of_not_load (hr : run ≠ .load) : startTaken run p = false := by
  simp [startTaken, beq_false_of_ne hr]

/-- Outside LOAD the start signal is not looked at (rule R188). -/
theorem controlSequencer_ignores_start (hr : run ≠ .load) (start : Bool) :
    controlSequencer run status { p with start := start } = controlSequencer run status p := by
  simp only [controlSequencer, startTaken_of_not_load hr]
  rfl

/-- The reset signal wins over everything else in its cycle (rule R186). -/
theorem controlSequencer_reset (hreset : p.reset = true) :
    controlSequencer run status p = ⟨.load, 0, false, true, false⟩ := by
  simp [controlSequencer, incTaken, stepTaken, hreset]

end Sequencer

theorem blockCycle_start_eq (start : Bool) (s : State) :
    blockCycle start false s =
      afterCycle s (controlSequencer s.run s.status { cycleInput s with start := start }) := rfl

theorem blockCycle_start {s : State} (hr : s.run = .load) : blockCycle true false s = s.start := by
  rw [blockCycle_start_eq, hr, controlSequencer_start rfl rfl]
  rfl

theorem blockCycle_ignores_start {s : State} (hr : s.run ≠ .load) (start : Bool) :
    blockCycle start false s = blockCycle false false s := by
  rw [blockCycle_start_eq, controlSequencer_ignores_start hr, blockCycle_eq_afterCycle]

/-- The state after a cycle with reset in which the sequencer answers `q`: the reset state, with what the sequencer and
the program counter put out themselves (rules R155, R185). -/
def afterResetCycle (s : State) (q : SequencerOut) : State :=
  { State.reset with run := q.run, status := q.status, pc := programCounter s.pc q.pcInc q.pcClear }

theorem blockCycle_reset_eq (start : Bool) (s : State) :
    blockCycle start true s =
      afterResetCycle s
        (controlSequencer s.run s.status { cycleInput s with start := start, reset := true }) := rfl

theorem blockCycle_reset (start : Bool) (s : State) : blockCycle start true s = State.reset := by
  rw [blockCycle_reset_eq, controlSequencer_reset rfl]
  rfl

/-- Settles O60: the three cycles, by what the sequencer answers to the two signals. -/
theorem blocksStartAndReset : Obligations.BlocksStartAndReset :=
  fun s => ⟨fun hr => (blockCycle_start hr).trans (command_start hr).symm,
    fun hr => blockCycle_ignores_start hr true, fun start => blockCycle_reset start s⟩

end Sys2Proof.Proofs
end

section
/-! PROOFS. The one exception, RegisterIndexFault, and the ways to halt (rules R165, R166, R170, R171): which words
raise it and what it leaves, what the host reads of it, and how a halted core ended. -/

namespace Sys2Proof.Proofs

open Sys2Proof.Machine Sys2Proof.Laws

/-! ## RegisterIndexFault -/

/-- A halted core answers `read_memory` with the cell, and stays as it is (rules R187, R200). -/
theorem command_readMemory {s : State} (hr : s.run = .halted) (a : Fin Config.nmem) :
    command (.readMemory a) s = (.cell (s.mem.read a), s) := by
  have ha : (Command.readMemory a).admitted s = true := beq_iff_eq.2 hr
  rw [command, if_pos ha]
  rfl

/-- The fault writes no cell, so the host reads at the pc the cell that the fetch met (rules R171, R200). -/
theorem command_readMemory_faultedWith (s : State) (index : BitVec 4) (hpc : s.pc.toNat < 40) :
    command (.readMemory ⟨s.pc.toNat, hpc⟩) (s.faultedWith index) =
      (.cell (s.mem.read s.pc.toNat), s.faultedWith index) :=
  command_readMemory rfl _

/-- Settles O28: a faulting word halts the core and is read back, and every other word completes. -/
theorem registerIndexFaultExactly : Obligations.RegisterIndexFaultExactly := by
  intro s w hpc hr hw
  constructor
  · intro hf
    have hstep := step_of_faulting hr hpc hw hf
    have hread := command_readMemory_faultedWith s (w.extractLsb' 3 4) hpc
    rw [raise_eq_faultedWith] at hstep
    rw [hw] at hread
    exact ⟨hstep, hread⟩
  · intro hf
    obtain ⟨t, ht, hrun, hnext, hstatus⟩ := step_completes hr hpc hw hf
    exact ⟨t, ht, hrun, hstatus, hnext⟩

/-! ## How a halted core ended -/

/-- The four halt reasons use up the codes of the 2-bit field (rule R165). -/
theorem exists_reason_of_code (y : BitVec 2) : ∃ reason : HaltReason, y = reason.code := by
  have hcodes : y = 0b00#2 ∨ y = 0b01#2 ∨ y = 0b10#2 ∨ y = 0b11#2 := by bv_omega
  rcases hcodes with h | h | h | h
  · exact ⟨.none, h⟩
  · exact ⟨.emptyCell, h⟩
  · exact ⟨.bound, h⟩
  · exact ⟨.fault, h⟩

/-- A halted core whose STATUS is sound ended normally or in the fault: HALT_REASON is not 00 (rules R45, R165). -/
theorem ended_of_halted {s : State} (hs : s.StatusOk) (hr : s.run = .halted) :
    s.endedNormally ∨ s.endedInFault := by
  obtain ⟨reason, hreason⟩ := exists_reason_of_code (statusHaltReason s.status)
  cases reason with
  | none => exact absurd hr (hs.reason_iff.1 hreason)
  | emptyCell => exact .inl ⟨hr, .inl hreason⟩
  | bound => exact .inl ⟨hr, .inr hreason⟩
  | fault => exact .inr ⟨hr, hreason⟩

/-- No end is both normal and the fault: the codes of the reasons differ (rules R165, R166). -/
theorem not_endedInFault_of_endedNormally {s : State} (hn : s.endedNormally) : ¬ s.endedInFault := by
  obtain ⟨-, hempty | hbound⟩ := hn
  · exact fun ⟨_, hfault⟩ => absurd (reasonCode_injective (hempty.symm.trans hfault)) (by decide)
  · exact fun ⟨_, hfault⟩ => absurd (reasonCode_injective (hbound.symm.trans hfault)) (by decide)

/-- Settles O44: STATUS is sound in every state that can arise. -/
theorem threeWaysToHalt : Obligations.ThreeWaysToHalt :=
  fun s h hr => ⟨ended_of_halted (reachableStatesAreSound s h).status_ok hr,
    fun ⟨hn, hf⟩ => not_endedInFault_of_endedNormally hn hf⟩

end Sys2Proof.Proofs
end

section
/-! PROOFS. Reset and the host interface (rules R185 to R200): the states that admit each command and what it does
there, what the two loaders write, and the strings that the host adapter refuses. -/

namespace Sys2Proof.Proofs

open Sys2Proof.Machine Sys2Proof.Laws

/-! ## Admitted and refused commands -/

theorem command_of_admitted {c : Command} {s : State} (ha : c.admitted s = true) : command c s = c.effect s :=
  if_pos ha

theorem command_of_not_admitted {c : Command} {s : State} (ha : c.admitted s = false) :
    command c s = (.refused .notAdmitted, s) :=
  if_neg (Bool.eq_false_iff.1 ha)

/-- While RUNNING only reset and read_status are admitted (rule R187). -/
theorem not_admitted_of_running {c : Command} {s : State} (hr : s.run = .running) (hreset : c ≠ .reset)
    (hstatus : c ≠ .readStatus) : c.admitted s = false := by
  cases c with
  | reset => exact absurd rfl hreset
  | readStatus => exact absurd rfl hstatus
  | loadProgram ws => simp [Command.admitted, hr]
  | loadData ps => simp [Command.admitted, hr]
  | start => simp [Command.admitted, hr]
  | readResults => simp [Command.admitted, hr]
  | readMemory a => simp [Command.admitted, hr]
  | readPc => simp [Command.admitted, hr]

/-- load_data waits for a load_program (rule R187, in the model's reading, notes/assumptions/3.md). -/
theorem admitted_loadData_iff {ps : List (Nat × Word)} {s : State} :
    (Command.loadData ps).admitted s = true ↔ s.run = .load ∧ s.programLoaded = true := by
  simp [Command.admitted]

theorem command_reset (s : State) : command .reset s = (.done, State.reset) :=
  command_of_admitted rfl

theorem command_loadProgram {s : State} (hr : s.run = .load) (ws : List Word) :
    command (.loadProgram ws) s = (.done, s.loadProgram ws) :=
  command_of_admitted (beq_iff_eq.2 hr)

theorem command_start_of_load {s : State} (hr : s.run = .load) : command .start s = (.done, s.start) :=
  command_of_admitted (beq_iff_eq.2 hr)

/-- An admitted load_data whose addresses the data loader reaches is carried out (rules R194, R195). -/
theorem command_loadData {s : State} {ps : List (Nat × Word)} (hr : s.run = .load) (hl : s.programLoaded = true)
    (hps : ∀ p ∈ ps, p.1 < 16) : command (.loadData ps) s = (.done, s.loadData ps) := by
  rw [command_of_admitted (admitted_loadData_iff.2 ⟨hr, hl⟩)]
  exact if_pos (List.all_eq_true.2 fun p hp => decide_eq_true (hps p hp))

/-- One address that the data loader does not reach refuses the whole load_data (rule R194). -/
theorem command_loadData_outOfRange {s : State} {ps : List (Nat × Word)} {p : Nat × Word} (hr : s.run = .load)
    (hl : s.programLoaded = true) (hp : p ∈ ps) (hp16 : 16 ≤ p.1) :
    command (.loadData ps) s = (.refused .addressOutOfRange, s) := by
  rw [command_of_admitted (admitted_loadData_iff.2 ⟨hr, hl⟩)]
  exact if_neg fun hall => Nat.not_lt.2 hp16 (of_decide_eq_true (List.all_eq_true.1 hall p hp))

theorem command_loadData_before_loadProgram {s : State} (hl : s.programLoaded = false) (ps : List (Nat × Word)) :
    command (.loadData ps) s = (.refused .notAdmitted, s) :=
  command_of_not_admitted (by simp [Command.admitted, hl])

/-- Settles O49: the column "admitted in" of R187, one run state at a time. -/
theorem commandsNotAdmittedAreRefused : Obligations.CommandsNotAdmittedAreRefused := by
  refine ⟨fun c s hr hreset hstatus => command_of_not_admitted (not_admitted_of_running hr hreset hstatus),
    fun s ws ps hr => ?_, fun s a hr => ?_⟩
  · refine ⟨command_of_not_admitted ?_, command_of_not_admitted ?_, command_of_not_admitted ?_⟩ <;>
      simp [Command.admitted, hr]
  · refine ⟨command_of_not_admitted ?_, command_of_not_admitted ?_, command_of_not_admitted ?_⟩ <;>
      simp [Command.admitted, hr]

/-- Settles O50: the bit that admits load_data is cleared at reset, and load_program sets it and stays in LOAD. -/
theorem loadDataWaitsForLoadProgram : Obligations.LoadDataWaitsForLoadProgram := by
  refine ⟨rfl, command_loadData_before_loadProgram rfl,
    fun s ws ps hr => ⟨fun hl => command_loadData_before_loadProgram hl ps, fun hps => ?_⟩⟩
  have hload : (s.loadProgram ws).run = .load := hr
  have hloaded : (s.loadProgram ws).programLoaded = true := rfl
  rw [command_loadProgram hr, command_loadData hload hloaded hps]

/-- Settles O53: the address check refuses the command before any pair is written. -/
theorem dataAddressOutOfRangeRefused : Obligations.DataAddressOutOfRangeRefused :=
  fun _ _ _ hr hl hp hp16 => command_loadData_outOfRange hr hl hp hp16

/-! ## Reset, start and readout -/

/-- Settles O40. -/
theorem invariantAtReset : Obligations.InvariantAtReset :=
  inv_reset

/-- Settles O46, field by field of the reset state. -/
theorem resetState : Obligations.ResetState :=
  ⟨get_reset, read_nil, rfl, rfl, rfl⟩

/-- Settles O47: a halted core has no step, and only the plain reset request changes it. -/
theorem resetInAnyState : Obligations.ResetInAnyState := by
  refine ⟨command_reset, fun s c hr hc => ?_⟩
  obtain ⟨hstep, -, hrequest, -⟩ := haltedIsTerminal s hr
  have hsame : (command c s).2 = s := hrequest (.plain c) fun h => hc (Request.plain.inj h)
  exact ⟨(congrArg State.run hsame).trans hr, hstep⟩

/-- Settles O48: start writes the RUN field of STATUS alone, and a reachable LOAD state has the registers of reset. -/
theorem startRule : Obligations.StartRule := by
  refine ⟨fun s hr => ⟨setStatusRun s.status RunState.running.code, command_start_of_load hr, statusRun_setRun ..,
    statusHaltReason_setRun .., statusBadIdx_setRun .., statusReserved_setRun ..⟩, fun s h hr r => ?_⟩
  have hregs : s.regs = RegFile.reset := congrArg State.regs (eq_reset_of_load h hr)
  rw [command_start_of_load hr, start_regs, hregs, get_reset]

/-- Settles O58: read_status is admitted in every state, and HALTED admits the other three reads. -/
theorem readoutRule : Obligations.ReadoutRule :=
  ⟨fun _ => command_of_admitted rfl, fun _ hr => ⟨command_of_admitted (beq_iff_eq.2 hr), command_readMemory hr,
    command_of_admitted (beq_iff_eq.2 hr)⟩⟩

/-- Settles O42: an admitted command keeps the invariant, and any other request leaves the state. -/
theorem requestKeepsInvariant : Obligations.RequestKeepsInvariant :=
  fun r _ hs => inv_request r hs

/-! ## The program loader -/

/-- The `k`-th of the words written from address `a` up stands at `a + k` (rule R192). -/
theorem read_writeWords_at (m : Memory) (a : Nat) (ws : List Word) {k : Nat} (hk : k < ws.length) :
    (m.writeWords a ws).read (a + k) = .word ws[k] := by
  induction ws generalizing m a k with
  | nil => exact absurd hk (Nat.not_lt_zero k)
  | cons w ws ih =>
    rw [Memory.writeWords]
    cases k with
    | zero => exact (read_writeWords_below _ _ ws (Nat.lt_succ_self a)).trans (read_write_same ..)
    | succ k =>
      have hread := ih (m.write a (.word w)) (a + 1) (Nat.lt_of_succ_lt_succ hk)
      rwa [Nat.add_right_comm] at hread

/-- No word is written past the last one's address (rule R192). -/
theorem read_writeWords_above (m : Memory) (a : Nat) (ws : List Word) {k : Nat} (hk : a + ws.length ≤ k) :
    (m.writeWords a ws).read k = m.read k := by
  induction ws generalizing m a with
  | nil => rfl
  | cons w ws ih =>
    rw [List.length_cons] at hk
    rw [Memory.writeWords, ih _ _ (by omega), read_write_other _ _ (by omega)]

/-- Settles O51: the words written are the first 40 of the list. -/
theorem programLoaderRule : Obligations.ProgramLoaderRule := by
  refine fun s ws hr => ⟨(s.loadProgram ws).mem, true, command_loadProgram hr ws, fun k hk hk40 => ?_, fun k hk => ?_⟩
  · have hk' : k < (ws.take 40).length := by rw [List.length_take]; omega
    have hread := read_writeWords_at s.mem 0 (ws.take 40) hk'
    rwa [Nat.zero_add, List.getElem_take] at hread
  · refine read_writeWords_above s.mem 0 (ws.take 40) ?_
    rw [List.length_take]
    omega

/-! ## The data loader -/

theorem writePairs_append (m : Memory) (qs rs : List (Nat × Word)) :
    m.writePairs (qs ++ rs) = (m.writePairs qs).writePairs rs := by
  induction qs generalizing m with
  | nil => rfl
  | cons q qs ih => exact ih _

/-- A cell that no pair names keeps its content (rule R195). -/
theorem read_writePairs_other (m : Memory) (ps : List (Nat × Word)) {k : Nat} (hk : ∀ p ∈ ps, p.1 ≠ k) :
    (m.writePairs ps).read k = m.read k := by
  induction ps generalizing m with
  | nil => rfl
  | cons p ps ih =>
    obtain ⟨hp, hps⟩ := List.forall_mem_cons.1 hk
    rw [Memory.writePairs, ih _ hps, read_write_other _ _ hp.symm]

/-- The last pair that names an address wins (rule R195). -/
theorem read_writePairs_last (m : Memory) (qs rs : List (Nat × Word)) (p : Nat × Word) (hrs : ∀ q ∈ rs, q.1 ≠ p.1) :
    (m.writePairs (qs ++ p :: rs)).read p.1 = .word p.2 := by
  rw [writePairs_append, Memory.writePairs, read_writePairs_other _ _ hrs, read_write_same]

/-- A load_data leaves the cells from 16 up, refused or carried out: a pair that names one of them refuses it
(rules R194, R195). -/
theorem read_command_loadData_of_ge (s : State) (ps : List (Nat × Word)) {k : Nat} (hk : 16 ≤ k) :
    (command (.loadData ps) s).2.mem.read k = s.mem.read k := by
  by_cases ha : (Command.loadData ps).admitted s = true
  · obtain ⟨hr, hl⟩ := admitted_loadData_iff.1 ha
    by_cases hps : ∀ p ∈ ps, p.1 < 16
    · rw [command_loadData hr hl hps]
      exact read_writePairs_other s.mem ps fun p hp => Nat.ne_of_lt ((hps p hp).trans_le hk)
    · obtain ⟨p, hp, hp16⟩ : ∃ p ∈ ps, 16 ≤ p.1 := by simpa using hps
      rw [command_loadData_outOfRange hr hl hp hp16]
  · rw [command_of_not_admitted (Bool.eq_false_iff.2 ha)]

/-- Settles O52: what the pairs write, and the cells that no load_data reaches. -/
theorem dataLoaderRule : Obligations.DataLoaderRule := by
  refine ⟨fun s ps hr hl hps => ⟨s.mem.writePairs ps, command_loadData hr hl hps, ?_, fun k hk =>
    read_writePairs_other s.mem ps hk⟩, fun s ps k hk => read_command_loadData_of_ge s ps hk⟩
  rintro qs rs p rfl hrs
  exact read_writePairs_last s.mem qs rs p hrs

/-! ## Malformed strings -/

/-- A character other than '0' and '1', at any position, has no digits' value (rule R196). -/
theorem digitsValue_eq_none {cs : List Char} (h : ∃ c ∈ cs, c ≠ '0' ∧ c ≠ '1') (acc : Nat) :
    digitsValue acc cs = none := by
  induction cs generalizing acc with
  | nil => simp at h
  | cons d cs ih =>
    rw [digitsValue]
    cases hd : digitValue d with
    | none => rfl
    | some n =>
      obtain ⟨c, hc, hc0, hc1⟩ := h
      rcases List.mem_cons.1 hc with rfl | hc
      · simp [digitValue, hc0, hc1] at hd
      · exact ih ⟨c, hc, hc0, hc1⟩ _

theorem fieldOfText_of_malformed {width : Nat} {cs : List Char} (h : malformed width cs) :
    fieldOfText width cs = none := by
  rw [fieldOfText]
  rcases h with hlen | hchar
  · exact if_neg hlen
  · rw [digitsValue_eq_none hchar, ite_self]

theorem wordOfText_of_malformed {cs : List Char} (h : malformed 16 cs) : wordOfText cs = none := by
  rw [wordOfText, fieldOfText_of_malformed h, Option.map_none]

/-- One malformed program word leaves no words at all, wherever it stands (rule R196, notes/assumptions/18.md). -/
theorem wordsOfText_of_malformed {lines : List (List Char)} (h : ∃ cs ∈ lines, malformed 16 cs) :
    wordsOfText lines = none := by
  induction lines with
  | nil => simp at h
  | cons line lines ih =>
    rcases (List.exists_mem_cons_iff ..).1 h with hline | hlines
    · simp [wordsOfText, wordOfText_of_malformed hline]
    · simp [wordsOfText, ih hlines]

/-- One malformed address or value leaves no pairs at all (rule R196). -/
theorem pairsOfText_of_malformed {pairs : List (List Char × List Char)}
    (h : ∃ p ∈ pairs, malformed 4 p.1 ∨ malformed 16 p.2) : pairsOfText pairs = none := by
  induction pairs with
  | nil => simp at h
  | cons pair pairs ih =>
    rcases (List.exists_mem_cons_iff ..).1 h with (haddress | hvalue) | hpairs
    · simp [pairsOfText, addressOfText, fieldOfText_of_malformed haddress]
    · simp [pairsOfText, wordOfText_of_malformed hvalue]
    · simp [pairsOfText, ih hpairs]

/-- A request that the host adapter cannot convert is refused (rule R196). -/
theorem request_of_toCommand_none {r : Request} (h : r.toCommand = none) (s : State) :
    request r s = (.refused .malformedWord, s) := by
  rw [request, h]

/-- Settles O54: a malformed string leaves the adapter no command to issue. -/
theorem malformedStringsRefused : Obligations.MalformedStringsRefused := by
  refine ⟨fun s lines _ h => request_of_toCommand_none ?_ s, fun s pairs _ _ h => request_of_toCommand_none ?_ s⟩
  · exact congrArg (Option.map Command.loadProgram) (wordsOfText_of_malformed h)
  · exact congrArg (Option.map Command.loadData) (pairsOfText_of_malformed h)

end Sys2Proof.Proofs
end
